-- ==== Sys2Proof/Word.lean ====
section
/-! DEFINITION. The word types of the block (10_state.md R10, 30_encoding.md R45). Bits are numbered LSB-0 (R7). -/

namespace Sys2Proof

/-- A byte of the sector buffer, the immediate of a command, the address of a value block (8 bits). -/
abbrev Byte := BitVec 8

/-- A command word (16 bits, R45). -/
abbrev Word16 := BitVec 16

/-- The data half of a response, and the value of a value block (32 bits, R52). -/
abbrev Word32 := BitVec 32

/-- The operand field `a` of a command, a response code, the fault latch (4 bits). -/
abbrev Nibble := BitVec 4

/-- An access condition vector, `c1 ‖ c2 ‖ c3` with `c1` in bit 2 (3 bits, R14). -/
abbrev CondVec := BitVec 3

end Sys2Proof
end

