-- ==== Sys2Proof/Syntax.lean ====
section
/-! DEFINITION. The command set: one constructor per row of spec/opcode_table.json (30_encoding.md R47), and the
reasons a word is no command (R48). -/

namespace Sys2Proof

/-- The twelve commands (R47). `j` and `r` are the field `a` as it stands, all sixteen values: a value outside a
command's legal range still decodes as that command (R46). `imm` is the byte of `PUSH`. -/
inductive Instr where
  /-- `NOP` (43_system.md R90) -/
  | nop
  /-- `CLR` (43_system.md R91) -/
  | clr
  /-- `PUSH imm` (43_system.md R92) -/
  | push (imm : Byte)
  /-- `ACDEC` (40_acd.md R62) -/
  | acdec
  /-- `RDCV j` (40_acd.md R63) -/
  | rdcv (j : Nibble)
  /-- `KEYB` (40_acd.md R64) -/
  | keyb
  /-- `ROLE j` (41_classify.md R73) -/
  | role (j : Nibble)
  /-- `DFLG j` (41_classify.md R74) -/
  | dflg (j : Nibble)
  /-- `VCAND j` (41_classify.md R75) -/
  | vcand (j : Nibble)
  /-- `VBCHK j` (42_vbv.md R82) -/
  | vbchk (j : Nibble)
  /-- `RDREG r` (43_system.md R93) -/
  | rdreg (r : Nibble)
  /-- `ACCHK` (40_acd.md R66), present only with `HAS_ACCHK` -/
  | acchk
  deriving DecidableEq, Repr

/-- Why a word is illegal: the four cases of R48. -/
inductive IllegalWord where
  /-- (a) `op` is 0xC, 0xD, 0xE or 0xF -/
  | reservedOpcode
  /-- (b) `op` is 0xB and `HAS_ACCHK` is false -/
  | acchkAbsent
  /-- (c) `imm ≠ 0` and `op` is not 0x2 -/
  | immNotZero
  /-- (d) `a ≠ 0` and `op` is one of 0x0, 0x1, 0x2, 0x3, 0x5, 0xB -/
  | aNotZero
  deriving DecidableEq, Repr

end Sys2Proof
end

