-- ==== Sys2Proof/WellFormed.lean ====
section
/-! DEFINITION. Which commands a block has. Every operand the encoding admits is a value of `Instr`'s own field types
(30_encoding.md R46), so the one check left is that the optional command is there (40_acd.md R66). -/

namespace Sys2Proof

/-- The command exists on a block whose parameter `HAS_ACCHK` is `hasAcchk` (R47, R66). -/
def Instr.wellFormed (hasAcchk : Bool) : Instr → Bool
  | .nop => true
  | .clr => true
  | .push _ => true
  | .acdec => true
  | .rdcv _ => true
  | .keyb => true
  | .role _ => true
  | .dflg _ => true
  | .vcand _ => true
  | .vbchk _ => true
  | .rdreg _ => true
  | .acchk => hasAcchk

end Sys2Proof
end

