-- ==== Sys2Proof/Decode.lean ====
section
/-! DEFINITION. The decoder, total on every 16-bit word and rejecting by name (30_encoding.md R45 to R48, R53), and
the encoder written from the same table. -/

namespace Sys2Proof

/-- `op`, bits 15:12 (R45). -/
def opField (w : Word16) : Nibble := w.extractLsb' 12 4

/-- `a`, bits 11:8 (R45). -/
def aField (w : Word16) : Nibble := w.extractLsb' 8 4

/-- `imm`, bits 7:0 (R45). -/
def immField (w : Word16) : Byte := w.extractLsb' 0 8

/-- A command without operand: both `a` and `imm` must be 0 (R45, R48(c), R48(d)). -/
def bareCommand (w : Word16) (i : Instr) : Except IllegalWord Instr :=
  if immField w ≠ 0#8 then .error .immNotZero
  else if aField w ≠ 0#4 then .error .aNotZero
  else .ok i

/-- A command whose operand is `a`: `imm` must be 0 (R48(c)), and `a` is taken as it stands (R46). -/
def indexedCommand (w : Word16) (command : Nibble → Instr) : Except IllegalWord Instr :=
  if immField w ≠ 0#8 then .error .immNotZero
  else .ok (command (aField w))

/-- `PUSH`: `a` must be 0 (R48(d)), and `imm` is the byte (R46). -/
def pushCommand (w : Word16) : Except IllegalWord Instr :=
  if aField w ≠ 0#4 then .error .aNotZero
  else .ok (.push (immField w))

/-- The opcode map of R47, for a block whose parameter `HAS_ACCHK` is `hasAcchk`. It reads nothing else (R53). -/
def decode (hasAcchk : Bool) (w : Word16) : Except IllegalWord Instr :=
  match (opField w).toNat with
  | 0x0 => bareCommand w .nop
  | 0x1 => bareCommand w .clr
  | 0x2 => pushCommand w
  | 0x3 => bareCommand w .acdec
  | 0x4 => indexedCommand w .rdcv
  | 0x5 => bareCommand w .keyb
  | 0x6 => indexedCommand w .role
  | 0x7 => indexedCommand w .dflg
  | 0x8 => indexedCommand w .vcand
  | 0x9 => indexedCommand w .vbchk
  | 0xA => indexedCommand w .rdreg
  | 0xB => if hasAcchk then bareCommand w .acchk else .error .acchkAbsent
  | _ => .error .reservedOpcode

/-- `op ‖ a ‖ imm` (R45). -/
def commandWord (op a : Nibble) (imm : Byte) : Word16 := op ++ a ++ imm

/-- The word of a command (R47). -/
def encode : Instr → Word16
  | .nop => commandWord 0x0#4 0#4 0#8
  | .clr => commandWord 0x1#4 0#4 0#8
  | .push imm => commandWord 0x2#4 0#4 imm
  | .acdec => commandWord 0x3#4 0#4 0#8
  | .rdcv j => commandWord 0x4#4 j 0#8
  | .keyb => commandWord 0x5#4 0#4 0#8
  | .role j => commandWord 0x6#4 j 0#8
  | .dflg j => commandWord 0x7#4 j 0#8
  | .vcand j => commandWord 0x8#4 j 0#8
  | .vbchk j => commandWord 0x9#4 j 0#8
  | .rdreg r => commandWord 0xA#4 r 0#8
  | .acchk => commandWord 0xB#4 0#4 0#8

/-- The command the decoder reads from a word of spec/opcode_table.json. The table lists the optional `ACCHK` as a
row, so this is the decoder of a block that has it. Every row is one 16-bit word presented whole (R45: it has no
byte order); `w` is cut to the `nbits` the table gives, and the bits above them are 0. -/
def decodeTableWord (nbits w : Nat) : Option Instr :=
  match decode true (BitVec.ofNat 16 (w % 2 ^ nbits)) with
  | .ok i => some i
  | .error _ => none

/-! The opcode map as the spec prints it, kept beside the decoder so that the two can be compared. -/

/-- One row of R47: a word `w` is the command of the row iff `w & mask = match`. -/
structure OpcodeRow where
  pattern : Word16
  mask : Word16
  optional : Bool
  deriving DecidableEq, Repr

/-- The row of each command (R47, opcode_table.json). -/
def opcodeRow : Instr → OpcodeRow
  | .nop => ⟨0x0000#16, 0xFFFF#16, false⟩
  | .clr => ⟨0x1000#16, 0xFFFF#16, false⟩
  | .push _ => ⟨0x2000#16, 0xFF00#16, false⟩
  | .acdec => ⟨0x3000#16, 0xFFFF#16, false⟩
  | .rdcv _ => ⟨0x4000#16, 0xF0FF#16, false⟩
  | .keyb => ⟨0x5000#16, 0xFFFF#16, false⟩
  | .role _ => ⟨0x6000#16, 0xF0FF#16, false⟩
  | .dflg _ => ⟨0x7000#16, 0xF0FF#16, false⟩
  | .vcand _ => ⟨0x8000#16, 0xF0FF#16, false⟩
  | .vbchk _ => ⟨0x9000#16, 0xF0FF#16, false⟩
  | .rdreg _ => ⟨0xA000#16, 0xF0FF#16, false⟩
  | .acchk => ⟨0xB000#16, 0xFFFF#16, true⟩

/-- The word matches the row (R47). -/
def OpcodeRow.covers (row : OpcodeRow) (w : Word16) : Bool := w &&& row.mask == row.pattern

end Sys2Proof
end

