-- ==== Sys2Proof/Config.lean ====
section
/-! DEFINITION. What is fixed for the block: the parameters of 00_scope.md R6 that some definition uses, and the one
value the spec leaves free. (`HAS_ACCHK`, the parameter R6 leaves OPEN, is carried beside the state: `State.hasAcchk`.) -/

namespace Sys2Proof.Config

/-- `BLOCK_BYTES` (R6): bytes per block. -/
def blockBytes : Nat := 16

/-- `SECTOR_BYTES` (R6): bytes per sector, the size of the sector buffer. -/
def sectorBytes : Nat := 64

/-- `SECTORS_PER_CARD` (R6): the host's number, the block never sees it. -/
def sectorsPerCard : Nat := 16

/-- `HAS_ACCHK`'s default (R6): opcode 0xB is reserved. -/
def hasAcchkDefault : Bool := false

/-- FREE VALUE: what an offset of the sector buffer holds while nothing has been loaded there since reset
(10_state.md R11, R26: "unspecified (any 64 bytes)"; 93_implementation_defined.md U1: any value). It has no body, so
no proof can see a value of it. -/
opaque unloadedByte : Nat → Byte

end Sys2Proof.Config
end

