-- ==== Sys2Proof/Machine/State.lean ====
section
/-! DEFINITION. The state of the block as plain data: the elements of 10_state.md R10, then the three fields of the
model's own (the spec's parameter and ports, R27). And how a step can end. -/

namespace Sys2Proof.Machine

/-- The sector buffer (20_memory.md R30): the bytes loaded so far, offsets strictly rising (`Memory.wf`). An offset
that is not listed has not been loaded since reset; see `memRead1` for what it reads as. -/
abbrev Memory := List Host.Cell

/-- The condition vector table `CV[0..3]` (R13): `b0` to `b2` are the data blocks, `b3` the trailer. -/
structure CvTable where
  b0 : CondVec
  b1 : CondVec
  b2 : CondVec
  b3 : CondVec
  deriving DecidableEq, Repr

/-- `VST`, the outcome of the last value-block check (R17). The two-bit code is `CheckStatus.code`. -/
inductive CheckStatus where
  /-- 0 `NONE`: no check since reset or `CLR` -/
  | unchecked
  /-- 1 `PLAIN`: the block is not a value-block candidate -/
  | plain
  /-- 2 `VALUE`: candidate and valid -/
  | value
  /-- 3 `MALFORMED`: candidate and invalid -/
  | malformed
  deriving DecidableEq, Repr

/-- The five errors that latch `FLT` (60_exceptions.md R100). `E_HALT` is a response only. -/
inductive ErrorCode where
  /-- `E_SIZE` -/
  | size
  /-- `E_ILLCMD` -/
  | illcmd
  /-- `E_RANGE` -/
  | range
  /-- `E_NODEC` -/
  | nodec
  /-- `E_OVF` -/
  | ovf
  deriving DecidableEq, Repr

/-- A response `(code, data)` (30_encoding.md R52). -/
structure Response where
  code : Nibble
  data : Word32
  deriving DecidableEq, Repr

/-- What the host can do to the block (70_reset_and_hazards.md R124). -/
inductive HostMove where
  /-- the reset input (R120) -/
  | reset
  /-- one word on the command port (00_scope.md R4) -/
  | command (word : Word16)
  deriving DecidableEq, Repr

structure State where
  /-- `SEC[0..63]` (R11) -/
  sec : Memory
  /-- `WP` (R12) -/
  wp : BitVec 7
  /-- `CV[0..3]` (R13) -/
  cv : CvTable
  /-- `CVV` (R15) -/
  cvv : Bool
  /-- `KBU` (R16) -/
  kbu : Bool
  /-- `VST` (R17) -/
  vst : CheckStatus
  /-- `VAL` (R17) -/
  val : Word32
  /-- `ADR` (R17) -/
  adr : Byte
  /-- `FLT` (R20) -/
  flt : Nibble
  /-- the model's own: the parameter `HAS_ACCHK` of this block (00_scope.md R6); DESIGN CHOICE, log 2 -/
  hasAcchk : Bool
  /-- the model's own: the host's moves not yet taken, the next one first (R5, R27); DESIGN CHOICE, log 3 -/
  pending : List HostMove
  /-- the model's own: the responses the host has received, newest first (R124); DESIGN CHOICE, log 4 -/
  received : List Response
  deriving DecidableEq, Repr

/-- The block right after reset (R26): everything 0, `SEC` unspecified, that is, nothing loaded. The model's own
fields: the parameter at the spec's default (R6), nothing pending, nothing received. -/
def State.reset : State where
  sec := []
  wp := 0#7
  cv := ⟨0#3, 0#3, 0#3, 0#3⟩
  cvv := false
  kbu := false
  vst := .unchecked
  val := 0#32
  adr := 0#8
  flt := 0#4
  hasAcchk := Config.hasAcchkDefault
  pending := []
  received := []

/-- Ways the machine stops with a fault: none. A step is total, and its errors are responses (00_scope.md R4,
60_exceptions.md R100), so nothing raises one. -/
inductive Fault where
  deriving DecidableEq, Repr

/-- Ways a command has no meaning. -/
inductive Refusal where
  /-- Raised by `exec`'s arm of a command that the model does not give a meaning yet; no arm does. Safe. -/
  | notModelled (mnemonic : String)
  deriving DecidableEq, Repr

/-- How a step ends. -/
abbrev Result := Host.Outcome State Fault Refusal

end Sys2Proof.Machine
end

