-- ==== Sys2Proof/Machine/Ops.lean ====
section
/-! DEFINITION. The shared operations: reading and writing the sector buffer (00_scope.md R8), responding, raising an
error and the ways into and out of the halt state (60_exceptions.md R101, R105; 70_reset_and_hazards.md R120). -/

namespace Sys2Proof.Machine

/-- `zext_32` (R7). -/
def zext32 {n : Nat} (v : BitVec n) : Word32 := v.setWidth 32

/-! ### The sector buffer -/

/-- The byte loaded at offset `a`, if one has been. -/
def loadedByte : Memory → Nat → Option Byte
  | [], _ => none
  | (b, v) :: m, a => if a = b then some v else loadedByte m a

/-- `m` with byte `v` at offset `a`, offsets kept rising. A loaded byte is never equal to "not loaded", so no write
takes an entry away. -/
def storeByte : Memory → Nat → Byte → Memory
  | [], a, v => [(a, v)]
  | (b, u) :: m, a, v =>
    if a < b then (a, v) :: (b, u) :: m
    else if a = b then (a, v) :: m
    else (b, u) :: storeByte m a v

/-- The canonical form: offsets strictly rising, each one an offset of the buffer (20_memory.md R30). -/
abbrev Memory.wf (m : Memory) : Prop :=
  m.Pairwise (fun c d => c.1 < d.1) ∧ ∀ c ∈ m, c.1 < Config.sectorBytes

/-- `MemRead(a, 1)` (R8). An offset that nothing has loaded since reset reads as a free value (R11, U1). -/
def memRead1 (s : State) (a : Nat) : Byte := (loadedByte s.sec a).getD (Config.unloadedByte a)

/-- Four bytes as a 32-bit pattern, the byte at the lowest offset in bits 7:0 (20_memory.md R33). -/
def littleEndian32 (b0 b1 b2 b3 : Byte) : Word32 := b3 ++ b2 ++ b1 ++ b0

/-- `MemRead(a, 4)` (R8, R33). -/
def memRead4 (s : State) (a : Nat) : Word32 :=
  littleEndian32 (memRead1 s a) (memRead1 s (a + 1)) (memRead1 s (a + 2)) (memRead1 s (a + 3))

/-- `MemWrite(a, 1, v)` (R8); no wider write exists. -/
def memWrite1 (a : Nat) (v : Byte) (s : State) : State := { s with sec := storeByte s.sec a v }

/-! ### Responses and errors -/

/-- The code of an error (60_exceptions.md R100). -/
def ErrorCode.bits : ErrorCode → Nibble
  | .size => 0x1#4
  | .illcmd => 0x2#4
  | .range => 0x3#4
  | .nodec => 0x4#4
  | .ovf => 0x5#4

/-- The code `OK` (30_encoding.md R52). -/
def okCode : Nibble := 0x0#4

/-- The code `E_HALT` (R52, R100). -/
def haltCode : Nibble := 0xF#4

/-- `respond(code, data)`: the step's response reaches the host (R8, R52). -/
def emit (code : Nibble) (data : Word32) (s : State) : State :=
  { s with received := ⟨code, data⟩ :: s.received }

/-- `respond(OK, data)` (R9). -/
def respond (data : Word32) (s : State) : State := emit okCode data s

/-- TAKING AN ERROR, `raise E(info)` (60_exceptions.md R101): `FLT` becomes the code, the host gets the code and
`info`, and nothing else is written. -/
def raise (e : ErrorCode) (info : Word32) (s : State) : State :=
  emit e.bits info { s with flt := e.bits }

/-- `raise E(zext_32(cmd))` by the command `i`: `cmd` is `i`'s own word, since each legal word is the word of exactly
one command (R47, R53). DEDUCED, log 6. -/
def raiseFor (e : ErrorCode) (i : Instr) (s : State) : Result := .next (raise e (zext32 (encode i)) s)

/-- `require ok else raise E(zext_32(cmd))`, then go on (the shape of every command rule, R9). -/
def demand (ok : Bool) (e : ErrorCode) (i : Instr) (s : State) (goOn : Result) : Result :=
  if ok then goOn else raiseFor e i s

/-- The block is halted (R105). -/
def halted (s : State) : Bool := s.flt != 0#4

/-- The answer of a halted block to any word: `E_HALT` with `FLT`, and no state changes (R105). -/
def answerHalted (s : State) : State := emit haltCode (zext32 s.flt) s

/-- THE WAY OUT, the reset input (70_reset_and_hazards.md R120, R26): every element at its reset value, no response.
The parameter, the host's list and the host's notes are not the block's, and stay. -/
def applyReset (s : State) : State :=
  { State.reset with hasAcchk := s.hasAcchk, pending := s.pending, received := s.received }

end Sys2Proof.Machine
end

