-- ==== Sys2Proof/Machine/Operands.lean ====
section
/-! DEFINITION. The operand forms: the two ranges of the field `a` (30_encoding.md R46), the table's vectors by block
index (10_state.md R13, R14), the offsets of blocks and access bytes (20_memory.md R31, R32), the signed reading of
`VAL` (42_vbv.md R84). -/

namespace Sys2Proof.Machine

/-- A block index of `RDCV`: 0 to 3 (R46). -/
def isBlock (j : Nibble) : Bool := decide (j.toNat ≤ 3)

/-- A data block's index, of `ROLE`, `DFLG`, `VCAND` and `VBCHK`: 0 to 2 (R46). -/
def isDataBlock (j : Nibble) : Bool := decide (j.toNat ≤ 2)

/-- `c1 ‖ c2 ‖ c3` (R14). -/
def packVec (c1 c2 c3 : Bool) : CondVec := BitVec.ofBool c1 ++ BitVec.ofBool c2 ++ BitVec.ofBool c3

/-- `CV[j]` (R13); every command checks that `j` is at most 3 first. -/
def CvTable.vec (t : CvTable) (j : Nibble) : CondVec :=
  match j.toNat with
  | 0 => t.b0
  | 1 => t.b1
  | 2 => t.b2
  | _ => t.b3

/-- All four vectors 0, as `CLR` and reset leave them (R13). -/
def CvTable.zero : CvTable := ⟨0#3, 0#3, 0#3, 0#3⟩

/-- The sector offset of byte `k` of block `j` (R31). -/
def blockOffset (j : Nibble) (k : Nat) : Nat := Config.blockBytes * j.toNat + k

/-- The offset of access byte A, trailer byte 6 (R31). -/
def accessAOffset : Nat := 54

/-- The offset of access byte B, trailer byte 7 (R31). -/
def accessBOffset : Nat := 55

/-- The offset of access byte C, trailer byte 8 (R31). -/
def accessCOffset : Nat := 56

/-- The address `PUSH` stores to: `WP` (20_memory.md R36). -/
def pushOffset (s : State) : Nat := s.wp.toNat

/-- The integer that `VAL` denotes (R84): two's complement. -/
def signedValue (v : Word32) : Int := if v.getLsbD 31 then (v.toNat : Int) - 2 ^ 32 else v.toNat

end Sys2Proof.Machine
end

