-- ==== Sys2Proof/Machine/Flags.lean ====
section
/-! DEFINITION. The flag-like state (10_state.md R28): `FULL`, the code of `VST`, the `STAT` view (R21), and the
clearing that `CLR` does (43_system.md R91). -/

namespace Sys2Proof.Machine

/-- `FULL`: `WP == 64` (R12). -/
def full (s : State) : Bool := s.wp == 64#7

/-- The two-bit code of `VST` (R17). -/
def CheckStatus.code : CheckStatus → BitVec 2
  | .unchecked => 0#2
  | .plain => 1#2
  | .value => 2#2
  | .malformed => 3#2

/-- `STAT` (R21): `FULL` in bit 0, `CVV` in bit 1, `KBU` in bit 2, `VST` in bits 4:3, the rest 0. -/
def statView (s : State) : Word32 :=
  zext32 (s.vst.code ++ BitVec.ofBool s.kbu ++ BitVec.ofBool s.cvv ++ BitVec.ofBool (full s))

/-- `CVT` (R22): `CV[j]` at bits `3j+2 : 3j`, the rest 0. -/
def cvtView (s : State) : Word32 := zext32 (s.cv.b3 ++ s.cv.b2 ++ s.cv.b1 ++ s.cv.b0)

/-- What `CLR` clears (R91): the fill count and every result; `SEC` and `FLT` are not written. -/
def clearResults (s : State) : State :=
  { s with
    wp := 0#7, cv := CvTable.zero, cvv := false, kbu := false, vst := .unchecked, val := 0#32, adr := 0#8 }

end Sys2Proof.Machine
end

