-- ==== Sys2Proof/Machine/Acd.lean ====
section
/-! DEFINITION. The Access-Condition Decoder: the functions `acd`, `kbu`, `enc` and the complement check, and the
commands `ACDEC`, `RDCV`, `KEYB`, `ACCHK` (40_acd.md). -/

namespace Sys2Proof.Machine

/-- The vector of block `j` in access bytes B and C (R60): `B[4+j] ‖ C[j] ‖ C[4+j]`. -/
def acdVector (b c : Byte) (j : Nat) : CondVec := packVec (b.getLsbD (4 + j)) (c.getLsbD j) (c.getLsbD (4 + j))

/-- `acd(B, C)` (R60). -/
def acd (b c : Byte) : CvTable := ⟨acdVector b c 0, acdVector b c 1, acdVector b c 2, acdVector b c 3⟩

/-- `kbu(c)` (R61): Key B is usable as a key unless `c` is one of the three patterns that expose it as data. -/
def kbuOf (c : CondVec) : Bool := !(c == 0b000#3 || c == 0b010#3 || c == 0b001#3)

/-- A nibble whose bit `j` is bit `n` of the vector of block `j`. -/
def planeOf (t : CvTable) (n : Nat) : Nibble :=
  BitVec.ofBool (t.b3.getLsbD n) ++ BitVec.ofBool (t.b2.getLsbD n) ++ BitVec.ofBool (t.b1.getLsbD n)
    ++ BitVec.ofBool (t.b0.getLsbD n)

/-- Byte B of `enc` (R65): the c1 bits over four arbitrary bits. -/
def encB (t : CvTable) (low : Nibble) : Byte := planeOf t 2 ++ low

/-- Byte C of `enc` (R65): the c3 bits over the c2 bits. -/
def encC (t : CvTable) : Byte := planeOf t 0 ++ planeOf t 1

/-- The complement check of `ACCHK` (R66). The layout is the spec's own, which it marks as general knowledge (G1);
log 5. -/
def complementsAgree (a b c : Byte) : Bool :=
  a.extractLsb' 0 4 == ~~~(b.extractLsb' 4 4)
    && a.extractLsb' 4 4 == ~~~(c.extractLsb' 0 4)
    && b.extractLsb' 0 4 == ~~~(c.extractLsb' 4 4)

/-- `ACDEC` (R62): decode the access conditions of the buffered sector. -/
def execAcdec (s : State) : Result :=
  demand (full s) .size .acdec s <|
    let table := acd (memRead1 s accessBOffset) (memRead1 s accessCOffset)
    .next (respond 0#32 { s with cv := table, kbu := kbuOf table.b3, cvv := true })

/-- `RDCV j` (R63): the condition vector of block `j`. -/
def execRdcv (j : Nibble) (s : State) : Result :=
  demand (isBlock j) .range (.rdcv j) s <|
  demand (full s) .size (.rdcv j) s <|
  demand s.cvv .nodec (.rdcv j) s <|
    .next (respond (zext32 (s.cv.vec j)) s)

/-- `KEYB` (R64): is Key B usable as a key. -/
def execKeyb (s : State) : Result :=
  demand (full s) .size .keyb s <|
  demand s.cvv .nodec .keyb s <|
    .next (respond (zext32 (BitVec.ofBool s.kbu)) s)

/-- `ACCHK` (R66): do the complement copies of the access bits agree. -/
def execAcchk (s : State) : Result :=
  demand (full s) .size .acchk s <|
    let ok := complementsAgree (memRead1 s accessAOffset) (memRead1 s accessBOffset) (memRead1 s accessCOffset)
    .next (respond (zext32 (BitVec.ofBool ok)) s)

end Sys2Proof.Machine
end

