-- ==== Sys2Proof/Machine/Classify.lean ====
section
/-! DEFINITION. The block classification lookups `role`, `dflag`, `vcand` and the commands `ROLE`, `DFLG`, `VCAND`
(41_classify.md). -/

namespace Sys2Proof.Machine

/-- The role of a data block (R70). -/
inductive Role where
  | none | transport | readOnly | nonrechValue | noAccess
  deriving DecidableEq, Repr

/-- The three-bit role code (R70). -/
def Role.code : Role → BitVec 3
  | .none => 0#3
  | .transport => 1#3
  | .readOnly => 2#3
  | .nonrechValue => 3#3
  | .noAccess => 4#3

/-- `role(c)` (R70). -/
def roleOf (c : CondVec) : Role :=
  if c = 0b000#3 then .transport
  else if c = 0b010#3 ∨ c = 0b101#3 then .readOnly
  else if c = 0b001#3 then .nonrechValue
  else if c = 0b111#3 then .noAccess
  else .none

/-- `dflag(c)` (R71), one flag for both keys. -/
def dflagOf (c : CondVec) : Bool := c == 0b000#3 || c == 0b110#3 || c == 0b001#3

/-- `vcand(c)` (R72). -/
def vcandOf (c : CondVec) : Bool := c == 0b110#3 || c == 0b001#3

/-- The shape the three lookups share (R73, R74, R75): a data block's index, a full buffer, a decoded table, and then
`answer` of the block's vector. -/
def lookup (i : Instr) (j : Nibble) (answer : CondVec → Word32) (s : State) : Result :=
  demand (isDataBlock j) .range i s <|
  demand (full s) .size i s <|
  demand s.cvv .nodec i s <|
    .next (respond (answer (s.cv.vec j)) s)

/-- `ROLE j` (R73). -/
def execRole (j : Nibble) (s : State) : Result := lookup (.role j) j (fun c => zext32 (roleOf c).code) s

/-- `DFLG j` (R74). -/
def execDflg (j : Nibble) (s : State) : Result := lookup (.dflg j) j (fun c => zext32 (BitVec.ofBool (dflagOf c))) s

/-- `VCAND j` (R75). -/
def execVcand (j : Nibble) (s : State) : Result := lookup (.vcand j) j (fun c => zext32 (BitVec.ofBool (vcandOf c))) s

end Sys2Proof.Machine
end

