-- ==== Sys2Proof/Machine/System.lean ====
section
/-! DEFINITION. The buffer and system commands `NOP`, `CLR`, `PUSH`, `RDREG` (43_system.md), each inside the frame of
00_scope.md R9 (the halt check and the decoding are the step's). -/

namespace Sys2Proof.Machine

/-- `NOP` (R90): nothing but the response. -/
def execNop (s : State) : Result := .next (respond 0#32 s)

/-- `CLR` (R91): forget the buffered sector. -/
def execClr (s : State) : Result := .next (respond 0#32 (clearResults s))

/-- `PUSH imm` (R92): append one byte to the sector buffer, refused with `E_OVF` unless `WP < 64`. -/
def execPush (imm : Byte) (s : State) : Result :=
  demand (decide (s.wp.toNat < Config.sectorBytes)) .ovf (.push imm) s <|
    .next (respond 0#32 { memWrite1 (pushOffset s) imm s with wp := s.wp + 1#7 })

/-- The readable registers (10_state.md R22). -/
inductive Reg where
  | stat | wp | cvt | val | adr
  deriving DecidableEq, Repr

/-- Register number `r`, 0 to 4; no register for 5 to 15 (R22). -/
def Reg.ofNumber (r : Nibble) : Option Reg :=
  match r.toNat with
  | 0 => some .stat
  | 1 => some .wp
  | 2 => some .cvt
  | 3 => some .val
  | 4 => some .adr
  | _ => none

/-- The value a register reads as (R22). -/
def regValue (s : State) : Reg → Word32
  | .stat => statView s
  | .wp => zext32 s.wp
  | .cvt => cvtView s
  | .val => s.val
  | .adr => zext32 s.adr

/-- `RDREG r` (R93): read a register; a number with no register raises `E_RANGE`. -/
def execRdreg (r : Nibble) (s : State) : Result :=
  match Reg.ofNumber r with
  | some reg => .next (respond (regValue s reg) s)
  | none => raiseFor .range (.rdreg r) s

end Sys2Proof.Machine
end

