-- ==== Sys2Proof/Machine/Vbv.lean ====
section
/-! DEFINITION. The Value-Block Validator: the function `vbv` and the command `VBCHK` (42_vbv.md). -/

namespace Sys2Proof.Machine

/-- The sixteen bytes of one block. -/
abbrev BlockBytes := Fin 16 → Byte

/-- What `vbv` answers (R81); `value` and `address` mean something only when `ok`. -/
structure ValueCheck where
  ok : Bool
  value : Word32
  address : Byte
  deriving DecidableEq, Repr

/-- `vbv(b)` (R80, R81). `v3` is the same bytes as `v1`, as the spec has it; bytes 8 to 11 are not read. -/
def vbv (b : BlockBytes) : ValueCheck :=
  let v1 := littleEndian32 (b 0) (b 1) (b 2) (b 3)
  let v2 := littleEndian32 (b 4 ^^^ 0xFF#8) (b 5 ^^^ 0xFF#8) (b 6 ^^^ 0xFF#8) (b 7 ^^^ 0xFF#8)
  let v3 := littleEndian32 (b 0) (b 1) (b 2) (b 3)
  let a1 := b 12
  let a2 := b 13
  let a3 := b 14
  let a4 := b 15
  { ok := v1 == v2 && v2 == v3 && a1 == (a2 ^^^ 0xFF#8) && (a2 ^^^ 0xFF#8) == a3 && a3 == (a4 ^^^ 0xFF#8)
    value := v1
    address := a1 }

/-- The bytes of block `j` of the buffered sector (R82, 20_memory.md R31). -/
def blockBytes (s : State) (j : Nibble) : BlockBytes := fun k => memRead1 s (blockOffset j k.val)

/-- The new `VST`, `VAL`, `ADR` (R82), and the response. -/
def recordCheck (status : CheckStatus) (value : Word32) (address : Byte) (s : State) : State :=
  respond (zext32 status.code) { s with vst := status, val := value, adr := address }

/-- `VBCHK j` (R82): plain data, valid value block, or malformed value block. A failed check is no error (R108). -/
def execVbchk (j : Nibble) (s : State) : Result :=
  demand (isDataBlock j) .range (.vbchk j) s <|
  demand (full s) .size (.vbchk j) s <|
  demand s.cvv .nodec (.vbchk j) s <|
    if vcandOf (s.cv.vec j) then
      let check := vbv (blockBytes s j)
      if check.ok then .next (recordCheck .value check.value check.address s)
      else .next (recordCheck .malformed 0#32 0#8 s)
    else .next (recordCheck .plain 0#32 0#8 s)

end Sys2Proof.Machine
end

