-- ==== Sys2Proof/Machine/Dispatch.lean ====
section
/-! DEFINITION. The dispatch: one arm per command, each one call of its meaning. -/

namespace Sys2Proof.Machine

def exec (i : Instr) (s : State) : Host.Outcome State Fault Refusal :=
  match i with
  | .nop => Sys2Proof.Machine.execNop s
  | .clr => Sys2Proof.Machine.execClr s
  | .push imm => Sys2Proof.Machine.execPush imm s
  | .acdec => Sys2Proof.Machine.execAcdec s
  | .rdcv j => Sys2Proof.Machine.execRdcv j s
  | .keyb => Sys2Proof.Machine.execKeyb s
  | .role j => Sys2Proof.Machine.execRole j s
  | .dflg j => Sys2Proof.Machine.execDflg j s
  | .vcand j => Sys2Proof.Machine.execVcand j s
  | .vbchk j => Sys2Proof.Machine.execVbchk j s
  | .rdreg r => Sys2Proof.Machine.execRdreg r s
  | .acchk => Sys2Proof.Machine.execAcchk s

end Sys2Proof.Machine
end

