-- ==== Sys2Proof/Machine/Fetch.lean ====
section
/-! DEFINITION. What stands around a command's meaning in a step: taking the host's next move, the reset input, and
the common frame of 00_scope.md R9 up to the decoded command. -/

namespace Sys2Proof.Machine

/-- What a step has come to once the host's move is taken. -/
inductive Fetched where
  /-- the step is complete -/
  | done (s : State)
  /-- the command `i` is to be run at `s` -/
  | run (i : Instr) (s : State)
  deriving DecidableEq, Repr

/-- A word on the command port (R9, R107): a halted block answers `E_HALT` (R105) before the word is looked at, an
illegal word raises `E_ILLCMD` (R103) before anything else is. -/
def takeWord (w : Word16) (s : State) : Fetched :=
  if halted s then .done (answerHalted s)
  else match decode s.hasAcchk w with
    | .error _ => .done (raise .illcmd (zext32 w) s)
    | .ok i => .run i s

/-- The host's next move is taken off its list (R4, R5, R124). With no move waiting the block does nothing: it never
acts on its own (R124). DEDUCED, log 3. -/
def fetch (s : State) : Fetched :=
  match s.pending with
  | [] => .done s
  | .reset :: rest => .done (applyReset { s with pending := rest })
  | .command w :: rest => takeWord w { s with pending := rest }

/-- `s` with the word `w` next on the command port, on a block that has the command `w` stands for: the word of the
optional `ACCHK` is put to a block with `HAS_ACCHK`, every other word to the block as it is. DESIGN CHOICE, log 2. -/
def presentWord (w : Word16) (s : State) : State :=
  { s with
    pending := .command w :: s.pending
    hasAcchk := s.hasAcchk || w == encode .acchk }

end Sys2Proof.Machine
end

