-- ==== Sys2Proof/Machine/Step.lean ====
section
/-! DEFINITION. One step of the block: one move of the host (00_scope.md R4, R9), and how a word is put where the
next step takes it. -/

namespace Sys2Proof.Machine

/-- One step: take the host's next move; if it is a legal command of a running block, run it. -/
def step (s : State) : Host.Outcome State Fault Refusal :=
  match fetch s with
  | .done t => .next t
  | .run i t => exec i t

/-- `s` with the table's word next on the command port. The block fetches nothing (10_state.md R19): the host presents
its words, so this stands for the host presenting `w` (log 3). A halted block would answer it `E_HALT` (R105). -/
def State.withFetchWord (s : State) (nbits w : Nat) : State :=
  presentWord (BitVec.ofNat 16 (w % 2 ^ nbits)) s

end Sys2Proof.Machine
end

