-- ==== Sys2Proof/Machine/HostSide.lean ====
section
/-! DEFINITION. The host's side of the port, as command lists: the pseudo-instructions of 30_encoding.md R51, the order
of commands that yields results (70_reset_and_hazards.md R123, R125) and the sectors of a card dump (R126,
20_memory.md R43). Nothing here is part of the block: no step uses it. -/

namespace Sys2Proof.Machine

/-- `PUSHN n, v` (R51). -/
def pushN (n : Nat) (v : Byte) : List Instr := List.replicate n (.push v)

/-- `LOADSEC b0 … b63` (R51): `CLR`, then one `PUSH` per byte in ascending offset order (R125). -/
def loadSector (bytes : List Byte) : List Instr := .clr :: bytes.map .push

/-- `DECODE b0 … b63` (R51). -/
def decodeSector (bytes : List Byte) : List Instr := loadSector bytes ++ [.acdec]

/-- The host's moves that present these commands in this order. -/
def movesOf (commands : List Instr) : List HostMove := commands.map (fun i => .command (encode i))

/-- The bytes of a whole Classic 1K dump (R43). -/
def dumpBytes : Nat := Config.sectorsPerCard * Config.sectorBytes

/-- The host's own checks and cut (R126): exactly 1024 bytes, sector index 0 to 15, then bytes `64s` to `64s+63`. -/
def sectorOfDump (dump : List Byte) (sector : Nat) : Option (List Byte) :=
  if dump.length = dumpBytes ∧ sector < Config.sectorsPerCard then
    some ((dump.drop (Config.sectorBytes * sector)).take Config.sectorBytes)
  else none

/-- A whole card, all sectors in ascending order (R126), each loaded, decoded and then asked `queries` (R123). -/
def cardProgram (dump : List Byte) (queries : List Instr) : Option (List Instr) :=
  (List.range Config.sectorsPerCard).foldr
    (fun sector later => do
      let bytes ← sectorOfDump dump sector
      let rest ← later
      pure (decodeSector bytes ++ queries ++ rest))
    (some [])

end Sys2Proof.Machine
end

