-- ==== Sys2Proof/Machine/Assembler.lean ====
section
/-! DEFINITION. The assembler syntax of 30_encoding.md R50 and the pseudo-instructions of R51: one command a line, the
mnemonic in upper case, then the operand if there is one. It exists so that programs can be written down; no step
uses it. What a line outside this syntax gives is `none` (log 9). -/

namespace Sys2Proof.Machine

/-- The value of a digit in a base up to 16. -/
def digitValue (base : Nat) (c : Char) : Option Nat :=
  let v :=
    if '0' ≤ c ∧ c ≤ '9' then some (c.toNat - '0'.toNat)
    else if 'a' ≤ c ∧ c ≤ 'f' then some (c.toNat - 'a'.toNat + 10)
    else if 'A' ≤ c ∧ c ≤ 'F' then some (c.toNat - 'A'.toNat + 10)
    else none
  v.filter (· < base)

/-- The number a string of digits denotes, most significant first, after the value so far. -/
def digitsValue (base : Nat) : Nat → List Char → Option Nat
  | soFar, [] => some soFar
  | soFar, c :: cs => (digitValue base c).bind fun d => digitsValue base (base * soFar + d) cs

/-- A decimal or a `0x` hexadecimal number (R50). -/
def numberOf : List Char → Option Nat
  | [] => none
  | '0' :: 'x' :: [] => none
  | '0' :: 'x' :: ds => digitsValue 16 0 ds
  | ds => digitsValue 10 0 ds

/-- A number for the field `a` (R46). -/
def nibbleOf (t : List Char) : Option Nibble :=
  (numberOf t).bind fun n => if n < 16 then some (BitVec.ofNat 4 n) else none

/-- A number for the field `imm` (R46). -/
def byteOf (t : List Char) : Option Byte :=
  (numberOf t).bind fun n => if n < 256 then some (BitVec.ofNat 8 n) else none

/-- The operand of `RDREG`: a number, or a register's name (R50). -/
def registerOf (t : List Char) : Option Nibble :=
  if t = "STAT".toList then some 0#4
  else if t = "WP".toList then some 1#4
  else if t = "CVT".toList then some 2#4
  else if t = "VAL".toList then some 3#4
  else if t = "ADR".toList then some 4#4
  else nibbleOf t

/-- The words of a line: runs of characters between blanks, a comma being a word of its own. -/
def splitWords : List Char → List (List Char)
  | [] => [[]]
  | c :: cs =>
    if c = ' ' ∨ c = '\t' then [] :: splitWords cs
    else if c = ',' then [] :: [c] :: splitWords cs
    else match splitWords cs with
      | [] => [[c]]
      | w :: ws => (c :: w) :: ws

/-- The words of a line before its comment (R50: a `#` starts a comment). -/
def lineWords (line : List Char) : List (List Char) :=
  (splitWords (line.takeWhile (· != '#'))).filter (fun w => !w.isEmpty)

/-- A command written without operand. -/
def bareMnemonic (m : List Char) : Option Instr :=
  if m = "NOP".toList then some .nop
  else if m = "CLR".toList then some .clr
  else if m = "ACDEC".toList then some .acdec
  else if m = "KEYB".toList then some .keyb
  else if m = "ACCHK".toList then some .acchk
  else none

/-- A command written with one operand. -/
def operandMnemonic (m x : List Char) : Option Instr :=
  if m = "PUSH".toList then (byteOf x).map .push
  else if m = "RDCV".toList then (nibbleOf x).map .rdcv
  else if m = "ROLE".toList then (nibbleOf x).map .role
  else if m = "DFLG".toList then (nibbleOf x).map .dflg
  else if m = "VCAND".toList then (nibbleOf x).map .vcand
  else if m = "VBCHK".toList then (nibbleOf x).map .vbchk
  else if m = "RDREG".toList then (registerOf x).map .rdreg
  else none

/-- The 64 bytes after `LOADSEC` or `DECODE` (R51). -/
def sectorOperand (xs : List (List Char)) : Option (List Byte) :=
  if xs.length = Config.sectorBytes then xs.mapM byteOf else none

/-- The commands a line stands for (R50, R51); a blank line stands for none. -/
def assembleLine (line : List Char) : Option (List Instr) :=
  match lineWords line with
  | [] => some []
  | [m] => (bareMnemonic m).map ([·])
  | [m, x] => (operandMnemonic m x).map ([·])
  | m :: xs =>
    if m = "LOADSEC".toList then (sectorOperand xs).map loadSector
    else if m = "DECODE".toList then (sectorOperand xs).map decodeSector
    else if m = "PUSHN".toList then
      match xs with
      | [n, [','], v] => (numberOf n).bind fun k => (byteOf v).map (pushN k)
      | _ => none
    else none

/-- A program, line by line (R50). -/
def assemble (lines : List String) : Option (List Instr) :=
  (lines.mapM fun l => assembleLine l.toList).map List.flatten

end Sys2Proof.Machine
end

