-- ==== Sys2Proof/Safety.lean ====
section
/-! DEFINITION. What claims about the block are stated in: the invariant of 10_state.md R23, which errors a command
raises (60_exceptions.md R100, R107), agreement up to bytes not loaded (R25), and runs (70_reset_and_hazards.md R130). -/

namespace Sys2Proof.Machine

/-- The clauses of R23, with three more that the model adds: the buffer's canonical form, that every offset below
`WP` has been loaded, and that the fault latch holds 0 or an error code (R20, R100). -/
structure StateOk (s : State) : Prop where
  /-- (a) -/
  fillCount : s.wp.toNat ≤ 64
  /-- (b) -/
  decodedIsFull : s.cvv = true → s.wp.toNat = 64
  /-- (c) -/
  tableOfSector : s.cvv = true → s.cv = acd (memRead1 s 55) (memRead1 s 56) ∧ s.kbu = kbuOf s.cv.b3
  /-- (d) -/
  undecodedIsZero : s.cvv = false → s.cv = ⟨0#3, 0#3, 0#3, 0#3⟩ ∧ s.kbu = false
  /-- (e) -/
  checkedIsDecoded : s.vst ≠ .unchecked → s.cvv = true
  /-- (f) -/
  noValueIsZero : s.vst ≠ .value → s.val = 0#32 ∧ s.adr = 0#8
  /-- the buffer is in its canonical form -/
  secWf : Memory.wf s.sec
  /-- every offset below the fill count has been loaded -/
  loaded : ∀ k, k < s.wp.toNat → (loadedByte s.sec k).isSome
  /-- the latch is 0 or one of the five codes -/
  faultCode : s.flt.toNat ≤ 5

/-! ### Which error a command raises, from the tables of R46, R100 and R107 -/

/-- The operand is in the command's legal range (R46, R104). -/
def operandLegal : Instr → Bool
  | .rdcv j => j.toNat ≤ 3
  | .role j => j.toNat ≤ 2
  | .dflg j => j.toNat ≤ 2
  | .vcand j => j.toNat ≤ 2
  | .vbchk j => j.toNat ≤ 2
  | .rdreg r => r.toNat ≤ 4
  | _ => true

/-- The commands that raise `E_SIZE` unless `WP == 64` (R100). -/
def needsFull : Instr → Bool
  | .acdec | .rdcv _ | .keyb | .role _ | .dflg _ | .vcand _ | .vbchk _ | .acchk => true
  | _ => false

/-- The commands that raise `E_NODEC` unless `CVV == 1` (R100). -/
def needsDecoded : Instr → Bool
  | .rdcv _ | .keyb | .role _ | .dflg _ | .vcand _ | .vbchk _ => true
  | _ => false

/-- The command that raises `E_OVF` unless `WP < 64` (R92, R100). -/
def needsRoom : Instr → Bool
  | .push _ => true
  | _ => false

/-- The error that is reported, if any: the first in the order of R107. -/
def reportedError (i : Instr) (s : State) : Option ErrorCode :=
  if operandLegal i = false then some .range
  else if needsFull i = true ∧ s.wp ≠ 64#7 then some .size
  else if needsDecoded i = true ∧ s.cvv = false then some .nodec
  else if needsRoom i = true ∧ 64 ≤ s.wp.toNat then some .ovf
  else none

/-! ### The state after an answer -/

/-- `s` after the answer `(OK, data)` and nothing else (R8, R52). -/
def okAnswer (data : Word32) (s : State) : State := { s with received := ⟨0x0#4, data⟩ :: s.received }

/-- `s` after the error `code` by the word `w`: the latch, the answer, and nothing else (R101). -/
def errorAnswer (code : Nibble) (w : Word16) (s : State) : State :=
  { s with flt := code, received := ⟨code, w.setWidth 32⟩ :: s.received }

/-! ### Agreement -/

/-- Two states that agree in everything but bytes the buffer does not hold: the offsets from `WP` on (R25). -/
structure AgreeOnLoaded (s t : State) : Prop where
  fill : s.wp.toNat ≤ 64
  bytes : ∀ k, k < s.wp.toNat → memRead1 s k = memRead1 t k
  rest : { t with sec := s.sec } = s

/-- Two states with full buffers that agree in everything but access byte A and the low nibble of access byte B
(40_acd.md R67). -/
structure AgreeOutsideComplements (s t : State) : Prop where
  full : s.wp = 64#7
  bytes : ∀ k, k < 64 → k ≠ 54 → k ≠ 55 → memRead1 s k = memRead1 t k
  highNibble : (memRead1 s 55).extractLsb' 4 4 = (memRead1 t 55).extractLsb' 4 4
  rest : { t with sec := s.sec } = s

/-! ### Runs -/

/-- `k` steps. -/
def runSteps (k : Nat) (s : State) : Result := Host.Core.run Sys2Proof.core k s

/-- The start of a run (R130): a reset block, with or without the optional command, and the host's moves waiting. -/
def startOfRun (hasAcchk : Bool) (moves : List HostMove) : State :=
  { State.reset with hasAcchk := hasAcchk, pending := moves }

/-- Words as the host's moves. -/
def wordMoves (words : List Word16) : List HostMove := words.map .command

end Sys2Proof.Machine
end

