-- ==== Sys2Proof/Certificates/Slice0/Obligations.lean ====
section
/-! DEFINITION. The statements for the provers: what each command answers and writes, the errors and their order, the
halt state, reset, the encoding, and the rules about the whole machine. OBLIGATIONS.json lists them. -/

open Sys2Proof Sys2Proof.Machine

/-! ### Reset -/

/-- R26: the reset value of every element that the table gives one. (`SEC` is unspecified: nothing is said of it.) -/
def Obligations.ResetLeavesTheTableValues : Prop :=
  State.reset.wp = 0#7 ∧ State.reset.cv = ⟨0#3, 0#3, 0#3, 0#3⟩ ∧ State.reset.cvv = false ∧ State.reset.kbu = false ∧
    State.reset.vst.code = 0#2 ∧ State.reset.val = 0#32 ∧ State.reset.adr = 0#8 ∧ State.reset.flt = 0#4 ∧
    statView State.reset = 0x00000000#32

/-- The reset state meets the invariant of R23, whatever moves wait and whether or not the option is fitted. -/
def Obligations.StartOfRunIsOk : Prop :=
  ∀ (hasAcchk : Bool) (moves : List HostMove), StateOk (startOfRun hasAcchk moves)

/-- R120: the reset input, applied in any state, halted or not, gives the reset values of R26 and emits no response; it
is the only way out of the halt state. `SEC` is unspecified: nothing is said of it. (That the parameter and the host's
own list and notes stay is the model's choice: log 2, 3, 4.) -/
def Obligations.ResetInputRestoresResetValues : Prop :=
  (∀ (s : State) (rest : List HostMove), s.pending = .reset :: rest →
    ∃ t, step s = .next t ∧
      t.wp = 0#7 ∧ t.cv = ⟨0#3, 0#3, 0#3, 0#3⟩ ∧ t.cvv = false ∧ t.kbu = false ∧ t.vst = .unchecked ∧
      t.val = 0#32 ∧ t.adr = 0#8 ∧ t.flt = 0#4 ∧
      t.received = s.received ∧ t.pending = rest ∧ t.hasAcchk = s.hasAcchk) ∧
  (∀ s t : State, s.flt ≠ 0#4 → step s = .next t → t.flt = 0#4 → ∃ rest, s.pending = .reset :: rest)

/-! ### The step -/

/-- R9 and the host's move (R4, R5): a legal word on the port of a running block is run as the command it decodes to,
after the move is taken off the host's list. -/
def Obligations.StepRunsTheDecodedCommand : Prop :=
  ∀ (s : State) (w : Word16) (rest : List HostMove) (i : Instr),
    s.pending = .command w :: rest → s.flt = 0#4 → decode s.hasAcchk w = .ok i →
      step s = exec i { s with pending := rest }

/-- The block never acts on its own (R124): with no move of the host waiting, a step changes nothing. That such a step
exists at all is the model's choice (log 3). -/
def Obligations.StepWithoutHostMoveChangesNothing : Prop :=
  ∀ s : State, s.pending = [] → step s = .next s

/-- R105: a halted block answers every word, legal or not, `E_HALT` with `FLT`, and changes no state. -/
def Obligations.HaltedBlockAnswersHaltAndChangesNothing : Prop :=
  ∀ (s : State) (w : Word16) (rest : List HostMove),
    s.pending = .command w :: rest → s.flt ≠ 0#4 →
      step s = .next { s with pending := rest, received := ⟨0xF#4, s.flt.setWidth 32⟩ :: s.received }

/-- R103: a word of the four cases of R48 raises `E_ILLCMD`, whatever the state of a block that is not halted. -/
def Obligations.IllegalWordRaisesIllcmd : Prop :=
  ∀ (s : State) (op a : Nibble) (imm : Byte) (rest : List HostMove),
    s.pending = .command (op ++ a ++ imm) :: rest → s.flt = 0#4 →
    (0xC ≤ op.toNat ∨ (op = 0xB#4 ∧ s.hasAcchk = false) ∨ (imm ≠ 0#8 ∧ op ≠ 0x2#4) ∨
      (a ≠ 0#4 ∧ (op = 0x0#4 ∨ op = 0x1#4 ∨ op = 0x2#4 ∨ op = 0x3#4 ∨ op = 0x5#4 ∨ op = 0xB#4))) →
      step s = .next (errorAnswer 0x2#4 (op ++ a ++ imm) { s with pending := rest })

/-- R4, R38: a step is total, takes exactly the host's next move, and does not depend on any later one; a command gets
exactly one response, put before the earlier ones, and a reset none. The parameter never changes (R27). -/
def Obligations.StepTakesOneMoveAndIgnoresLaterOnes : Prop :=
  ∀ (s : State) (m : HostMove), ∃ t : State,
    (∀ rest : List HostMove, step { s with pending := m :: rest } = .next { t with pending := rest }) ∧
    t.hasAcchk = s.hasAcchk ∧
    ((m = .reset ∧ t.received = s.received) ∨
      (∃ w r, m = .command w ∧ t.received = r :: s.received))

/-! ### Encoding -/

/-- Words written out from the encodings of R47, one or more of each family. -/
def Obligations.WordsOfEveryFamilyDecode : Prop :=
  decode false 0x0000#16 = .ok .nop ∧ decode false 0x1000#16 = .ok .clr ∧
    decode false 0x20AB#16 = .ok (.push 0xAB#8) ∧ decode false 0x3000#16 = .ok .acdec ∧
    decode false 0x4300#16 = .ok (.rdcv 3#4) ∧ decode false 0x5000#16 = .ok .keyb ∧
    decode false 0x6F00#16 = .ok (.role 15#4) ∧ decode false 0x7200#16 = .ok (.dflg 2#4) ∧
    decode false 0x8100#16 = .ok (.vcand 1#4) ∧ decode false 0x9200#16 = .ok (.vbchk 2#4) ∧
    decode false 0xA400#16 = .ok (.rdreg 4#4) ∧ decode true 0xB000#16 = .ok .acchk ∧
    decode false 0xB000#16 = .error .acchkAbsent ∧ decode false 0xC000#16 = .error .reservedOpcode ∧
    decode false 0x3001#16 = .error .immNotZero ∧ decode false 0x2100#16 = .error .aNotZero

/-- Decode and encode agree: every command a block has, with every operand the encoding admits, is read back from its
own word. -/
def Obligations.DecodeOfEncodeIsTheCommand : Prop :=
  ∀ (hasAcchk : Bool) (i : Instr), i.wellFormed hasAcchk = true → decode hasAcchk (encode i) = .ok i

/-- R53: every word is either exactly one command that the block has, and then it is that command's word, or illegal. -/
def Obligations.EveryWordIsOneCommandOrIllegal : Prop :=
  ∀ (hasAcchk : Bool) (w : Word16),
    (∃ i, decode hasAcchk w = .ok i ∧ i.wellFormed hasAcchk = true ∧ encode i = w ∧
        ∀ k, k.wellFormed hasAcchk = true → encode k = w → k = i) ∨
      (∃ why, decode hasAcchk w = .error why ∧ ∀ k, k.wellFormed hasAcchk = true → encode k ≠ w)

/-- R47: a word is the command of a row iff the row's mask and match say so, and no word is in two rows. -/
def Obligations.RowOfTheOpcodeMapDecidesTheCommand : Prop :=
  (∀ (hasAcchk : Bool) (w : Word16) (i : Instr),
    i.wellFormed hasAcchk = true →
      ((opcodeRow i).covers w = true ↔ ∃ k, decode hasAcchk w = .ok k ∧ opcodeRow k = opcodeRow i)) ∧
  (∀ (w : Word16) (i k : Instr),
    (opcodeRow i).covers w = true → (opcodeRow k).covers w = true → opcodeRow i = opcodeRow k)

/-- R48: the words that are no command are exactly those of the four cases, and each gets the name of a case it is
in. -/
def Obligations.IllegalWordsAreTheFourCases : Prop :=
  ∀ (hasAcchk : Bool) (op a : Nibble) (imm : Byte),
    let bare := op = 0x0#4 ∨ op = 0x1#4 ∨ op = 0x2#4 ∨ op = 0x3#4 ∨ op = 0x5#4 ∨ op = 0xB#4
    let holds : IllegalWord → Prop := fun why =>
      match why with
      | .reservedOpcode => op = 0xC#4 ∨ op = 0xD#4 ∨ op = 0xE#4 ∨ op = 0xF#4
      | .acchkAbsent => op = 0xB#4 ∧ hasAcchk = false
      | .immNotZero => imm ≠ 0#8 ∧ op ≠ 0x2#4
      | .aNotZero => a ≠ 0#4 ∧ bare
    (∀ why, decode hasAcchk (op ++ a ++ imm) = .error why → holds why) ∧
      ((∃ why, holds why) → ∃ why, decode hasAcchk (op ++ a ++ imm) = .error why)

/-! ### The buffer and system commands -/

/-- R90: `NOP`, run inside the frame of R9, answers `(OK, 0)` and changes nothing; the words 0x0001 to 0x0FFF raise
`E_ILLCMD`; a halted block does not run it and answers `E_HALT` (log 10: the frame is the step's). -/
def Obligations.NopOnlyAnswers : Prop :=
  encode .nop = 0x0000#16 ∧
  (∀ s : State, exec .nop s = .next (okAnswer 0#32 s)) ∧
  (∀ (s : State) (w : Word16) (rest : List HostMove), s.pending = .command w :: rest → s.flt = 0#4 →
    0x0001 ≤ w.toNat → w.toNat ≤ 0x0FFF → step s = .next (errorAnswer 0x2#4 w { s with pending := rest })) ∧
  (∀ (s : State) (rest : List HostMove), s.pending = .command 0x0000#16 :: rest → s.flt ≠ 0#4 →
    step s = .next { s with pending := rest, received := ⟨0xF#4, s.flt.setWidth 32⟩ :: s.received })

/-- R91: `CLR` zeroes the fill count and every result, and writes neither `SEC` nor `FLT`. A running block is then in
the reset state but for `SEC`, the parameter and the host's own lists. Its reserved fields raise `E_ILLCMD`, and a
halted block answers it `E_HALT`. -/
def Obligations.ClrForgetsTheSector : Prop :=
  encode .clr = 0x1000#16 ∧
  (∀ s : State, exec .clr s = .next (okAnswer 0#32
    { s with wp := 0#7, cv := ⟨0#3, 0#3, 0#3, 0#3⟩, cvv := false, kbu := false,
             vst := .unchecked, val := 0#32, adr := 0#8 })) ∧
  (∀ (s t : State), exec .clr s = .next t → statView t = 0x00000000#32 ∧ (s.flt = 0#4 →
    { t with sec := [], hasAcchk := State.reset.hasAcchk, pending := [], received := [] } = State.reset)) ∧
  (∀ (s : State) (w : Word16) (rest : List HostMove), s.pending = .command w :: rest → s.flt = 0#4 →
    0x1001 ≤ w.toNat → w.toNat ≤ 0x1FFF → step s = .next (errorAnswer 0x2#4 w { s with pending := rest })) ∧
  (∀ (s : State) (rest : List HostMove), s.pending = .command 0x1000#16 :: rest → s.flt ≠ 0#4 →
    step s = .next { s with pending := rest, received := ⟨0xF#4, s.flt.setWidth 32⟩ :: s.received })

/-- R92: `PUSH imm` stores the byte at `WP` and counts it, while `WP < 64`; else it raises `E_OVF`. The offset stored
to is `pushOffset s`, and every other offset reads as before. `FULL` becomes 1 when the count reaches 64. `CVV` is 0
before and after in every state that meets the invariant. Non-zero bits 11:8 raise `E_ILLCMD`. -/
def Obligations.PushAppendsOneByte : Prop :=
  (∀ (imm : Byte) (s : State),
    encode (.push imm) = 0x20#8 ++ imm ∧
    (64 ≤ s.wp.toNat → exec (.push imm) s = .next (errorAnswer 0x5#4 (0x20#8 ++ imm) s)) ∧
    (s.wp.toNat < 64 → ∃ t, exec (.push imm) s = .next t ∧
      pushOffset s = s.wp.toNat ∧ t.wp.toNat = s.wp.toNat + 1 ∧
      memRead1 t (pushOffset s) = imm ∧
      (∀ a, a ≠ pushOffset s → memRead1 t a = memRead1 s a) ∧
      (full t = true ↔ s.wp.toNat = 63) ∧
      { t with sec := s.sec, wp := s.wp } = okAnswer 0#32 s ∧
      (StateOk s → s.cvv = false ∧ t.cvv = false))) ∧
  (∀ (s : State) (a : Nibble) (imm : Byte) (rest : List HostMove),
    s.pending = .command (0x2#4 ++ a ++ imm) :: rest → s.flt = 0#4 → a ≠ 0#4 →
      step s = .next (errorAnswer 0x2#4 (0x2#4 ++ a ++ imm) { s with pending := rest }))

/-- R93, R22: what `RDREG` answers for each register, the bits of `STAT` and `CVT` through their weights; for numbers
with no register it raises `E_RANGE`, and with a non-zero `imm` the word raises `E_ILLCMD`. Nothing else changes. -/
def Obligations.RdregReadsEachRegister : Prop :=
  (∀ (r : Nibble) (s : State),
    encode (.rdreg r) = 0xA#4 ++ r ++ 0x00#8 ∧
    (4 < r.toNat → exec (.rdreg r) s = .next (errorAnswer 0x3#4 (0xA#4 ++ r ++ 0x00#8) s)) ∧
    (r.toNat ≤ 4 → ∃ v : Word32, exec (.rdreg r) s = .next (okAnswer v s) ∧
      (r = 0#4 → v.toNat = (if s.wp = 64#7 then 1 else 0) + 2 * s.cvv.toNat + 4 * s.kbu.toNat + 8 * s.vst.code.toNat) ∧
      (r = 1#4 → v.toNat = s.wp.toNat) ∧
      (r = 2#4 → v.toNat = s.cv.b0.toNat + 8 * s.cv.b1.toNat + 64 * s.cv.b2.toNat + 512 * s.cv.b3.toNat) ∧
      (r = 3#4 → v = s.val) ∧
      (r = 4#4 → v.toNat = s.adr.toNat))) ∧
  (∀ (s : State) (r : Nibble) (imm : Byte) (rest : List HostMove),
    s.pending = .command (0xA#4 ++ r ++ imm) :: rest → s.flt = 0#4 → imm ≠ 0#8 →
      step s = .next (errorAnswer 0x2#4 (0xA#4 ++ r ++ imm) { s with pending := rest }))

/-! ### The access-condition decoder -/

/-- R60: which bit of access bytes B and C each bit of each vector is. -/
def Obligations.AcdTakesTheTwelveBits : Prop :=
  ∀ (b c : Byte),
    (acd b c).b3 = BitVec.ofBool (b.getLsbD 7) ++ BitVec.ofBool (c.getLsbD 3) ++ BitVec.ofBool (c.getLsbD 7) ∧
    (acd b c).b2 = BitVec.ofBool (b.getLsbD 6) ++ BitVec.ofBool (c.getLsbD 2) ++ BitVec.ofBool (c.getLsbD 6) ∧
    (acd b c).b1 = BitVec.ofBool (b.getLsbD 5) ++ BitVec.ofBool (c.getLsbD 1) ++ BitVec.ofBool (c.getLsbD 5) ∧
    (acd b c).b0 = BitVec.ofBool (b.getLsbD 4) ++ BitVec.ofBool (c.getLsbD 0) ++ BitVec.ofBool (c.getLsbD 4)

/-- R62: `ACDEC` on a full buffer writes the table of `SEC[55]`, `SEC[56]`, the Key B bit of block 3's vector and
`CVV`; otherwise it raises `E_SIZE`. Its reserved fields raise `E_ILLCMD`. The last clause is the rule's example. -/
def Obligations.AcdecDecodesTheBufferedTrailer : Prop :=
  encode .acdec = 0x3000#16 ∧
  (∀ s : State, s.wp ≠ 64#7 → exec .acdec s = .next (errorAnswer 0x1#4 0x3000#16 s)) ∧
  (∀ s : State, s.wp = 64#7 →
    exec .acdec s = .next (okAnswer 0#32
      { s with cv := acd (memRead1 s 55) (memRead1 s 56),
               kbu := kbuOf (acd (memRead1 s 55) (memRead1 s 56)).b3, cvv := true })) ∧
  (∀ (s : State) (w : Word16) (rest : List HostMove), s.pending = .command w :: rest → s.flt = 0#4 →
    0x3001 ≤ w.toNat → w.toNat ≤ 0x3FFF → step s = .next (errorAnswer 0x2#4 w { s with pending := rest })) ∧
  (acd 0x07#8 0x80#8 = ⟨0b000#3, 0b000#3, 0b000#3, 0b001#3⟩ ∧ kbuOf (acd 0x07#8 0x80#8).b3 = false)

/-- R63: `RDCV j` answers the vector of block `j`, 0 to 3, and changes nothing; or it raises `E_RANGE`, `E_SIZE`,
`E_NODEC`, in this order. -/
def Obligations.RdcvReadsTheVector : Prop :=
  ∀ s : State,
    (∀ j : Nibble, encode (.rdcv j) = 0x4#4 ++ j ++ 0x00#8) ∧
    (∀ j : Nibble, 3 < j.toNat → exec (.rdcv j) s = .next (errorAnswer 0x3#4 (0x4#4 ++ j ++ 0x00#8) s)) ∧
    (∀ j : Nibble, j.toNat ≤ 3 → s.wp ≠ 64#7 →
      exec (.rdcv j) s = .next (errorAnswer 0x1#4 (0x4#4 ++ j ++ 0x00#8) s)) ∧
    (∀ j : Nibble, j.toNat ≤ 3 → s.wp = 64#7 → s.cvv = false →
      exec (.rdcv j) s = .next (errorAnswer 0x4#4 (0x4#4 ++ j ++ 0x00#8) s)) ∧
    (s.wp = 64#7 → s.cvv = true →
      exec (.rdcv 0#4) s = .next (okAnswer (s.cv.b0.setWidth 32) s) ∧
      exec (.rdcv 1#4) s = .next (okAnswer (s.cv.b1.setWidth 32) s) ∧
      exec (.rdcv 2#4) s = .next (okAnswer (s.cv.b2.setWidth 32) s) ∧
      exec (.rdcv 3#4) s = .next (okAnswer (s.cv.b3.setWidth 32) s))

/-- R64: `KEYB` answers the Key B bit, which by the invariant is `kbu` of block 3's vector. The last clause is the
rule's corner case (the all-zero trailer) and its example. -/
def Obligations.KeybReadsTheKeyBBit : Prop :=
  encode .keyb = 0x5000#16 ∧
  (∀ s : State, s.wp ≠ 64#7 → exec .keyb s = .next (errorAnswer 0x1#4 0x5000#16 s)) ∧
  (∀ s : State, s.wp = 64#7 → s.cvv = false → exec .keyb s = .next (errorAnswer 0x4#4 0x5000#16 s)) ∧
  (∀ s : State, s.wp = 64#7 → s.cvv = true →
    exec .keyb s = .next (okAnswer (if s.kbu = true then 1#32 else 0#32) s)) ∧
  (∀ s : State, StateOk s → s.wp = 64#7 → s.cvv = true →
    exec .keyb s = .next (okAnswer (if kbuOf s.cv.b3 = true then 1#32 else 0#32) s)) ∧
  (∀ (s : State) (w : Word16) (rest : List HostMove), s.pending = .command w :: rest → s.flt = 0#4 →
    0x5001 ≤ w.toNat → w.toNat ≤ 0x5FFF → step s = .next (errorAnswer 0x2#4 w { s with pending := rest })) ∧
  (kbuOf (acd 0x00#8 0x00#8).b3 = false ∧ (acd 0x0F#8 0x88#8).b3 = 0b011#3 ∧ kbuOf 0b011#3 = true)

/-- R66: `ACCHK`, on a block that has it: 1 iff `A[3:0]`, `A[7:4]`, `B[3:0]` are the complements of `B[7:4]`, `C[3:0]`,
`C[7:4]`. It writes nothing and needs no decoded table. (The layout is the spec's, which marks it as general
knowledge: log 5.) -/
def Obligations.AcchkChecksTheComplements : Prop :=
  encode .acchk = 0xB000#16 ∧
  (∀ s : State, s.wp ≠ 64#7 → exec .acchk s = .next (errorAnswer 0x1#4 0xB000#16 s)) ∧
  (∀ s : State, s.wp = 64#7 → ∃ ok : Bool,
    exec .acchk s = .next (okAnswer (if ok = true then 1#32 else 0#32) s) ∧
    (ok = true ↔ ∀ k, k < 4 →
      (memRead1 s 54).getLsbD k = !(memRead1 s 55).getLsbD (4 + k) ∧
      (memRead1 s 54).getLsbD (4 + k) = !(memRead1 s 56).getLsbD k ∧
      (memRead1 s 55).getLsbD k = !(memRead1 s 56).getLsbD (4 + k))) ∧
  (∀ (s : State) (w : Word16) (rest : List HostMove), s.pending = .command w :: rest → s.flt = 0#4 →
    0xB000 ≤ w.toNat → w.toNat ≤ 0xBFFF → (s.hasAcchk = false ∨ w ≠ 0xB000#16) →
      step s = .next (errorAnswer 0x2#4 w { s with pending := rest })) ∧
  (complementsAgree 0xFF#8 0x07#8 0x80#8 = true ∧ complementsAgree 0x00#8 0x00#8 0x00#8 = false)

/-- R65: encoding a table and decoding it gives the table back, for every table and every choice of the four arbitrary
bits, and every table is reached. -/
def Obligations.AccessBytesRoundTrip : Prop :=
  (∀ (t : CvTable) (low : Nibble), acd (encB t low) (encC t) = t) ∧
  (∀ t : CvTable, ∃ b c : Byte, acd b c = t)

/-- R67: for every command but `ACCHK` (and `PUSH`, which a full buffer refuses), two full sectors that differ only in
access byte A and the low nibble of access byte B get the same response, and afterwards still differ only there, or
the buffer has been emptied. -/
def Obligations.ComplementCopiesAreDontCare : Prop :=
  ∀ (i : Instr) (s t : State), i ≠ .acchk → AgreeOutsideComplements s t →
    ∃ s' t', exec i s = .next s' ∧ exec i t = .next t' ∧ s'.received = t'.received ∧
      { t' with sec := s'.sec } = s' ∧ s'.sec = s.sec ∧ t'.sec = t.sec

/-! ### The classification lookups -/

/-- R61, R70, R71, R72: the four lookups over all eight patterns, and a candidate always has the "d" flag. -/
def Obligations.LookupsOverAllPatterns : Prop :=
  ([0b000#3, 0b001#3, 0b010#3, 0b011#3, 0b100#3, 0b101#3, 0b110#3, 0b111#3].map fun c =>
      ((roleOf c).code.toNat, (dflagOf c).toNat, (vcandOf c).toNat, (kbuOf c).toNat)) =
    [(1, 1, 0, 0), (3, 1, 1, 0), (2, 0, 0, 0), (0, 0, 0, 1), (0, 0, 0, 1), (2, 0, 0, 1), (0, 1, 1, 1), (4, 0, 0, 1)] ∧
  (∀ c : CondVec, vcandOf c = true → dflagOf c = true)

/-- R73, R74, R75: what `ROLE`, `DFLG` and `VCAND` answer for a data block's vector, and when they raise `E_RANGE`,
`E_SIZE`, `E_NODEC`. They change nothing else. -/
def Obligations.LookupsAnswerForDataBlocks : Prop :=
  ∀ (j : Nibble) (s : State),
    (encode (.role j) = 0x6#4 ++ j ++ 0x00#8 ∧ encode (.dflg j) = 0x7#4 ++ j ++ 0x00#8 ∧
      encode (.vcand j) = 0x8#4 ++ j ++ 0x00#8) ∧
    (2 < j.toNat →
      exec (.role j) s = .next (errorAnswer 0x3#4 (0x6#4 ++ j ++ 0x00#8) s) ∧
      exec (.dflg j) s = .next (errorAnswer 0x3#4 (0x7#4 ++ j ++ 0x00#8) s) ∧
      exec (.vcand j) s = .next (errorAnswer 0x3#4 (0x8#4 ++ j ++ 0x00#8) s)) ∧
    (j.toNat ≤ 2 → s.wp ≠ 64#7 →
      exec (.role j) s = .next (errorAnswer 0x1#4 (0x6#4 ++ j ++ 0x00#8) s) ∧
      exec (.dflg j) s = .next (errorAnswer 0x1#4 (0x7#4 ++ j ++ 0x00#8) s) ∧
      exec (.vcand j) s = .next (errorAnswer 0x1#4 (0x8#4 ++ j ++ 0x00#8) s)) ∧
    (j.toNat ≤ 2 → s.wp = 64#7 → s.cvv = false →
      exec (.role j) s = .next (errorAnswer 0x4#4 (0x6#4 ++ j ++ 0x00#8) s) ∧
      exec (.dflg j) s = .next (errorAnswer 0x4#4 (0x7#4 ++ j ++ 0x00#8) s) ∧
      exec (.vcand j) s = .next (errorAnswer 0x4#4 (0x8#4 ++ j ++ 0x00#8) s)) ∧
    (∀ c : CondVec, s.wp = 64#7 → s.cvv = true →
      (j = 0#4 ∧ s.cv.b0 = c ∨ j = 1#4 ∧ s.cv.b1 = c ∨ j = 2#4 ∧ s.cv.b2 = c) →
      exec (.role j) s = .next (okAnswer ((roleOf c).code.setWidth 32) s) ∧
      exec (.dflg j) s = .next (okAnswer (if dflagOf c = true then 1#32 else 0#32) s) ∧
      exec (.vcand j) s = .next (okAnswer (if vcandOf c = true then 1#32 else 0#32) s))

/-! ### The value-block validator -/

/-- R33, R80: a 32-bit field's byte at the lowest offset has the lowest weight, both in `MemRead(a, 4)` and in the value
`vbv` reads. -/
def Obligations.ValueFieldsAreLittleEndian : Prop :=
  (∀ (s : State) (a : Nat), (memRead4 s a).toNat =
    (memRead1 s a).toNat + 2 ^ 8 * (memRead1 s (a + 1)).toNat + 2 ^ 16 * (memRead1 s (a + 2)).toNat
      + 2 ^ 24 * (memRead1 s (a + 3)).toNat) ∧
  (∀ b : BlockBytes, (vbv b).value.toNat =
    (b 0).toNat + 2 ^ 8 * (b 1).toNat + 2 ^ 16 * (b 2).toNat + 2 ^ 24 * (b 3).toNat) ∧
  (∀ (s : State) (j : Nibble), (vbv (blockBytes s j)).value = memRead4 s (16 * j.toNat))

/-- R83(a): a block is valid iff each of bytes 4 to 7 is the complement of the byte four before it, byte 13 that of
byte 12, and bytes 14, 15 repeat bytes 12, 13; then the value is bytes 0 to 3 and the address byte 12. -/
def Obligations.ValidBlockIsTheComplementPattern : Prop :=
  ∀ b : BlockBytes,
    ((vbv b).ok = true ↔
      b 4 = b 0 ^^^ 0xFF#8 ∧ b 5 = b 1 ^^^ 0xFF#8 ∧ b 6 = b 2 ^^^ 0xFF#8 ∧ b 7 = b 3 ^^^ 0xFF#8 ∧
      b 14 = b 12 ∧ b 15 = b 13 ∧ b 13 = b 12 ^^^ 0xFF#8) ∧
    (vbv b).value = b 3 ++ b 2 ++ b 1 ++ b 0 ∧ (vbv b).address = b 12

/-- R83(b), R83(c): changing one byte of a valid block makes it invalid if it is one of bytes 0 to 7 and 12 to 15, and
changes nothing if it is one of bytes 8 to 11. -/
def Obligations.OneChangedByteIsCaughtOutsideTheThirdCopy : Prop :=
  ∀ (b : BlockBytes) (k : Fin 16) (v : Byte), (vbv b).ok = true → v ≠ b k →
    let changed : BlockBytes := fun n => if n = k then v else b n
    (k.val < 8 ∨ 12 ≤ k.val → (vbv changed).ok = false) ∧
    (8 ≤ k.val ∧ k.val < 12 → vbv changed = vbv b)

/-- R82, R108: `VBCHK j` writes `VST`, `VAL`, `ADR` and answers the new `VST`; a malformed block is no error. -/
def Obligations.VbchkClassifiesTheBlock : Prop :=
  ∀ (j : Nibble) (s : State),
    encode (.vbchk j) = 0x9#4 ++ j ++ 0x00#8 ∧
    (2 < j.toNat → exec (.vbchk j) s = .next (errorAnswer 0x3#4 (0x9#4 ++ j ++ 0x00#8) s)) ∧
    (j.toNat ≤ 2 → s.wp ≠ 64#7 → exec (.vbchk j) s = .next (errorAnswer 0x1#4 (0x9#4 ++ j ++ 0x00#8) s)) ∧
    (j.toNat ≤ 2 → s.wp = 64#7 → s.cvv = false →
      exec (.vbchk j) s = .next (errorAnswer 0x4#4 (0x9#4 ++ j ++ 0x00#8) s)) ∧
    (∀ c : CondVec, s.wp = 64#7 → s.cvv = true →
      (j = 0#4 ∧ s.cv.b0 = c ∨ j = 1#4 ∧ s.cv.b1 = c ∨ j = 2#4 ∧ s.cv.b2 = c) →
      let b : BlockBytes := fun k => memRead1 s (16 * j.toNat + k.val)
      (vcandOf c = false →
        exec (.vbchk j) s = .next (okAnswer 1#32 { s with vst := .plain, val := 0#32, adr := 0#8 })) ∧
      (vcandOf c = true → (vbv b).ok = true →
        exec (.vbchk j) s = .next (okAnswer 2#32
          { s with vst := .value, val := b 3 ++ b 2 ++ b 1 ++ b 0, adr := b 12 })) ∧
      (vcandOf c = true → (vbv b).ok = false →
        exec (.vbchk j) s = .next (okAnswer 3#32 { s with vst := .malformed, val := 0#32, adr := 0#8 })))

/-- R84: the integer `VAL` denotes is the two's complement one, its range, and the complement of a byte is `255 - x`. -/
def Obligations.SignedReadingIsTwosComplement : Prop :=
  (∀ v : Word32, (v.getLsbD 31 = false → signedValue v = v.toNat) ∧
    (v.getLsbD 31 = true → signedValue v = (v.toNat : Int) - 2 ^ 32) ∧
    -2147483648 ≤ signedValue v ∧ signedValue v ≤ 2147483647) ∧
  (∀ v w : Word32, signedValue v = signedValue w → v = w) ∧
  (∀ x : Byte, (x ^^^ 0xFF#8).toNat = 255 - x.toNat)

/-! ### Errors -/

/-- R107, R104: exactly one error is reported for a word, the first in the order `E_HALT`, `E_ILLCMD`, then for a
decoded command the one that `reportedError` gives, the tables of R46 and R100 in the order `E_RANGE`, `E_SIZE`,
`E_NODEC`, with `E_OVF` for `PUSH`; a command for which it gives none answers `OK` and leaves the latch alone. -/
def Obligations.FirstErrorInPriorityOrder : Prop :=
  ∀ (s : State) (w : Word16) (rest : List HostMove), s.pending = .command w :: rest →
    (s.flt ≠ 0#4 → ∃ t, step s = .next t ∧ t.received = ⟨0xF#4, s.flt.setWidth 32⟩ :: s.received ∧ t.flt = s.flt) ∧
    (s.flt = 0#4 → ∀ why, decode s.hasAcchk w = .error why →
      step s = .next (errorAnswer 0x2#4 w { s with pending := rest })) ∧
    (s.flt = 0#4 → ∀ i, decode s.hasAcchk w = .ok i →
      match reportedError i s with
      | some e => step s = .next (errorAnswer e.bits w { s with pending := rest })
      | none => ∃ t d, step s = .next t ∧ t.received = ⟨0x0#4, d⟩ :: s.received ∧ t.flt = 0#4)

/-- R101: an error is precise. A step of a running block that ends halted has changed the latch and given the answer,
`(E, the word)`, and nothing else. -/
def Obligations.ErrorsArePrecise : Prop :=
  ∀ (s t : State) (w : Word16) (rest : List HostMove),
    s.pending = .command w :: rest → s.flt = 0#4 → step s = .next t → t.flt ≠ 0#4 →
      t = errorAnswer t.flt w { s with pending := rest }

/-- R52: every response to a word is `(OK, result)`, or one of the five errors with the word as data, or `E_HALT` with
the latch; codes 6 to 14 never occur. -/
def Obligations.ResponsesHaveTheListedCodes : Prop :=
  ∀ (s : State) (w : Word16) (rest : List HostMove), s.pending = .command w :: rest →
    ∃ t r, step s = .next t ∧ t.received = r :: s.received ∧
      ((r.code = 0x0#4 ∧ s.flt = 0#4 ∧ t.flt = 0#4 ∧
          ((w = 0x0000#16 ∨ w = 0x1000#16 ∨ w.extractLsb' 8 8 = 0x20#8 ∨ w = 0x3000#16) → r.data = 0#32)) ∨
        (1 ≤ r.code.toNat ∧ r.code.toNat ≤ 5 ∧ r.data = w.setWidth 32 ∧ s.flt = 0#4 ∧ t.flt = r.code) ∨
        (r.code = 0xF#4 ∧ s.flt ≠ 0#4 ∧ r.data = s.flt.setWidth 32 ∧ t.flt = s.flt))

/-- R111: there is no return from an error. A step of a halted block leaves every element as it was, or the host's move
was the reset input, and then the block runs again with the buffered sector and all results gone. Errors do not nest:
every command of a halted block is answered `E_HALT` with the first error's code. -/
def Obligations.OnlyResetLeavesHalt : Prop :=
  (∀ s t : State, s.flt ≠ 0#4 → step s = .next t →
    { t with pending := s.pending, received := s.received } = s ∨
      ((∃ rest, s.pending = .reset :: rest) ∧ t.flt = 0#4 ∧ t.wp = 0#7 ∧ t.cv = ⟨0#3, 0#3, 0#3, 0#3⟩ ∧ t.cvv = false ∧
        t.kbu = false ∧ t.vst = .unchecked ∧ t.val = 0#32 ∧ t.adr = 0#8)) ∧
  (∀ (s : State) (w : Word16) (rest : List HostMove), s.pending = .command w :: rest → s.flt ≠ 0#4 →
    ∃ t, step s = .next t ∧ t.flt = s.flt ∧ t.received = ⟨0xF#4, s.flt.setWidth 32⟩ :: s.received)

/-! ### Rules about the whole machine -/

/-- R23 as an invariant: every step keeps it, from every state that meets it. -/
def Obligations.EveryStepKeepsStateOk : Prop :=
  ∀ s t : State, StateOk s → step s = .next t → StateOk t

/-- R23: its six clauses in every state that is reached from reset, by any number of steps and whatever the host's
moves. -/
def Obligations.ReachableStatesKeepTheSixClauses : Prop :=
  ∀ (hasAcchk : Bool) (moves : List HostMove) (k : Nat) (s : State),
    runSteps k (startOfRun hasAcchk moves) = .next s →
      s.wp.toNat ≤ 64 ∧
      (s.cvv = true → s.wp.toNat = 64) ∧
      (s.cvv = true → s.cv = acd (memRead1 s 55) (memRead1 s 56) ∧ s.kbu = kbuOf s.cv.b3) ∧
      (s.cvv = false → s.cv = ⟨0#3, 0#3, 0#3, 0#3⟩ ∧ s.kbu = false) ∧
      (s.vst ≠ .unchecked → s.cvv = true) ∧
      (s.vst ≠ .value → s.val = 0#32 ∧ s.adr = 0#8)

/-- R24: while the buffer is full, no word changes a byte of it; the buffer stays full, or it has been emptied by `CLR`
and no table is left. A `PUSH` to a running block raises `E_OVF`. -/
def Obligations.FullBufferIsImmutable : Prop :=
  ∀ (s : State) (w : Word16) (rest : List HostMove),
    s.pending = .command w :: rest → s.wp = 64#7 →
      ∃ t, step s = .next t ∧ (∀ a, memRead1 t a = memRead1 s a) ∧ t.sec = s.sec ∧
        (t.wp = 64#7 ∨ (w = 0x1000#16 ∧ t.wp = 0#7 ∧ t.cvv = false)) ∧
        (s.flt = 0#4 → w.extractLsb' 8 8 = 0x20#8 → t = errorAnswer 0x5#4 w { s with pending := rest })

/-- R10 to R17, R20, R28: which commands may write each element. -/
def Obligations.OnlyTheNamedCommandsWriteEachElement : Prop :=
  ∀ (i : Instr) (s t : State), exec i s = .next t →
    (t.sec ≠ s.sec → ∃ imm, i = .push imm) ∧
    (t.wp ≠ s.wp → i = .clr ∨ ∃ imm, i = .push imm) ∧
    (t.cv ≠ s.cv ∨ t.cvv ≠ s.cvv ∨ t.kbu ≠ s.kbu → i = .clr ∨ i = .acdec) ∧
    (t.vst ≠ s.vst ∨ t.val ≠ s.val ∨ t.adr ≠ s.adr → i = .clr ∨ ∃ j, i = .vbchk j) ∧
    (t.flt ≠ s.flt → ∃ e, reportedError i s = some e) ∧
    t.hasAcchk = s.hasAcchk ∧ t.pending = s.pending

/-- R11, R37: a step keeps the buffer's canonical form, and the one byte a `PUSH` stores is the only one that changes:
every step but a reset leaves every offset other than the one at `WP` as it was. -/
def Obligations.StepWritesAtMostTheByteAtWp : Prop :=
  ∀ s t : State, Memory.wf s.sec → step s = .next t →
    Memory.wf t.sec ∧
    ((∀ rest, s.pending ≠ .reset :: rest) → ∀ a, a ≠ pushOffset s → memRead1 t a = memRead1 s a)

/-- R25, one step: two states that agree up to bytes not loaded take the same step, with the same response, to states
that agree up to bytes not loaded. -/
def Obligations.UnloadedBytesDoNotMatterToAStep : Prop :=
  ∀ s t : State, AgreeOnLoaded s t →
    ∃ s' t', step s = .next s' ∧ step t = .next t' ∧ AgreeOnLoaded s' t'

/-- R25: whatever the sector buffer holds at reset, a run answers the same: the same responses, and the same state but
for the buffer. -/
def Obligations.ResetContentIsNeverObserved : Prop :=
  ∀ (hasAcchk : Bool) (moves : List HostMove) (k : Nat) (m n : Memory), ∃ s t : State,
    runSteps k { startOfRun hasAcchk moves with sec := m } = .next s ∧
    runSteps k { startOfRun hasAcchk moves with sec := n } = .next t ∧
    s.received = t.received ∧ { t with sec := s.sec } = s

/-- R35: `ACDEC`, `ACCHK` and `VBCHK j` are idempotent: done again, they give the same response and the same state. (Of
one that raised an error this says only that its effect is the same again: a step of the halted block does not run it,
log 10.) -/
def Obligations.ReadingCommandsAreIdempotent : Prop :=
  ∀ (i : Instr) (s : State), (i = .acdec ∨ i = .acchk ∨ ∃ j, i = .vbchk j) →
    ∃ (t : State) (r : Response),
      exec i s = .next t ∧ t.received = r :: s.received ∧
      exec i t = .next { t with received := r :: t.received }

/-! ### Runs -/

/-- R123, R125: `LOADSEC` on a running block, whatever it held: 65 steps later every answer was `(OK, 0)`, the buffer is
full with the pushed bytes in order, and nothing is decoded. -/
def Obligations.LoadSectorFillsTheBuffer : Prop :=
  ∀ (s : State) (bytes : List Byte) (rest : List HostMove),
    bytes.length = 64 → s.flt = 0#4 → s.pending = movesOf (loadSector bytes) ++ rest →
      ∃ t, runSteps 65 s = .next t ∧ t.pending = rest ∧ t.wp = 64#7 ∧ t.flt = 0#4 ∧ t.cvv = false ∧
        (∀ k, k < 64 → loadedByte t.sec k = bytes[k]?) ∧
        t.received = List.replicate 65 ⟨0x0#4, 0#32⟩ ++ s.received

/-- R123, R15: after `DECODE` the table and the Key B bit are those of the pushed trailer bytes 7 and 8, and every
answer was `(OK, 0)`. -/
def Obligations.DecodeSectorGivesTheTableOfItsTrailer : Prop :=
  ∀ (s : State) (bytes : List Byte) (rest : List HostMove) (b c : Byte),
    bytes.length = 64 → bytes[55]? = some b → bytes[56]? = some c →
    s.flt = 0#4 → s.pending = movesOf (decodeSector bytes) ++ rest →
      ∃ t, runSteps 66 s = .next t ∧ t.pending = rest ∧ t.wp = 64#7 ∧ t.flt = 0#4 ∧ t.cvv = true ∧
        t.cv = acd b c ∧ t.kbu = kbuOf (acd b c).b3 ∧
        t.received = List.replicate 66 ⟨0x0#4, 0#32⟩ ++ s.received

/-- R130: a run of a list of words from reset ends with one response to each word, and its latch is 0 iff no response
had a code other than `OK`. (That the words and the responses are lists in the state is the model's: log 3, 4.) -/
def Obligations.RunSucceedsIffEveryResponseIsOk : Prop :=
  ∀ (hasAcchk : Bool) (words : List Word16), ∃ t,
    runSteps words.length (startOfRun hasAcchk (wordMoves words)) = .next t ∧
    t.pending = [] ∧ t.received.length = words.length ∧
    (t.flt = 0#4 ↔ ∀ r ∈ t.received, r.code = 0x0#4)

/-! ### The host's side -/

/-- R43, R126: sector `n` (0 to 15) of a dump of exactly 1024 bytes is dump bytes `64n` to `64n+63`, in order, and any
other sector index or dump length is refused by the host itself. -/
def Obligations.DumpSectorsArePositional : Prop :=
  ∀ (dump : List Byte) (n : Nat),
    (dump.length = 1024 → n ≤ 15 → ∃ bytes, sectorOfDump dump n = some bytes ∧ bytes.length = 64 ∧
      ∀ k, k < 64 → bytes[k]? = dump[64 * n + k]?) ∧
    (dump.length ≠ 1024 ∨ 15 < n → sectorOfDump dump n = none)

/-- R50, R51: the assembler reads the spec's own examples, the register names and comments, and expands `PUSHN`. (That a
line outside the syntax gives nothing is the model's choice, log 9.) -/
def Obligations.AssemblerReadsTheSyntax : Prop :=
  assemble ["PUSH 0x64", "RDCV 3", "VBCHK 1", "RDREG 0"] =
      some [.push 0x64#8, .rdcv 3#4, .vbchk 1#4, .rdreg 0#4] ∧
    assemble ["CLR # forget", "", "RDREG VAL", "ACDEC"] = some [.clr, .rdreg 3#4, .acdec] ∧
    assemble ["PUSHN 3, 0xFF", "NOP"] = some [.push 0xFF#8, .push 0xFF#8, .push 0xFF#8, .nop] ∧
    assemble ["push 1"] = none ∧ assemble ["PUSH 256"] = none

/-! ### The reading of a run, as an invariant -/

/-- R130 step by step: if the latch is 0 iff every response so far was `OK`, the same holds after the step on any word.
(The responses so far are the host's list, which a reset input does not clear: log 3, 4.) -/
def Obligations.EveryWordKeepsTheReadingOfTheLatch : Prop :=
  ∀ (s t : State) (w : Word16) (rest : List HostMove), s.pending = .command w :: rest →
    (s.flt = 0#4 ↔ ∀ r ∈ s.received, r.code = 0x0#4) → step s = .next t →
      (t.flt = 0#4 ↔ ∀ r ∈ t.received, r.code = 0x0#4)
end

