-- ==== Sys2Proof/Laws/Encoding.lean ====
section
/-! SUPPORT. The three fields of a command word put together and taken apart again (R45). -/

namespace Sys2Proof

theorem toNat_fields (op a : Nibble) (imm : Byte) :
    (op ++ a ++ imm : Word16).toNat = 4096 * op.toNat + 256 * a.toNat + imm.toNat := by
  have happ : (op ++ a ++ imm : BitVec (4 + 4 + 8)).toNat = 4096 * op.toNat + 256 * a.toNat + imm.toNat := by
    rw [BitVec.toNat_append, BitVec.toNat_append, ← Nat.shiftLeft_add_eq_or_of_lt (by omega),
      ← Nat.shiftLeft_add_eq_or_of_lt (by omega), Nat.shiftLeft_eq, Nat.shiftLeft_eq]
    omega
  exact happ

theorem opField_fields (op a : Nibble) (imm : Byte) : opField (op ++ a ++ imm) = op := by
  apply BitVec.eq_of_toNat_eq
  rw [opField, BitVec.extractLsb'_toNat, toNat_fields, Nat.shiftRight_eq_div_pow]
  omega

theorem aField_fields (op a : Nibble) (imm : Byte) : aField (op ++ a ++ imm) = a := by
  apply BitVec.eq_of_toNat_eq
  rw [aField, BitVec.extractLsb'_toNat, toNat_fields, Nat.shiftRight_eq_div_pow]
  omega

theorem immField_fields (op a : Nibble) (imm : Byte) : immField (op ++ a ++ imm) = imm := by
  apply BitVec.eq_of_toNat_eq
  rw [immField, BitVec.extractLsb'_toNat, toNat_fields, Nat.shiftRight_eq_div_pow]
  omega

theorem opField_commandWord (op a : Nibble) (imm : Byte) : opField (commandWord op a imm) = op :=
  opField_fields op a imm

theorem aField_commandWord (op a : Nibble) (imm : Byte) : aField (commandWord op a imm) = a :=
  aField_fields op a imm

theorem immField_commandWord (op a : Nibble) (imm : Byte) : immField (commandWord op a imm) = imm :=
  immField_fields op a imm

/-- Every word is its three fields. -/
theorem fields_of_word (w : Word16) : opField w ++ aField w ++ immField w = w := by
  apply BitVec.eq_of_toNat_eq
  rw [toNat_fields, opField, aField, immField, BitVec.extractLsb'_toNat, BitVec.extractLsb'_toNat,
    BitVec.extractLsb'_toNat, Nat.shiftRight_eq_div_pow, Nat.shiftRight_eq_div_pow, Nat.shiftRight_eq_div_pow]
  omega

end Sys2Proof
end

