-- ==== Sys2Proof/Laws/State.lean ====
section
/-! SUPPORT. One lemma per field of State and per update: what each shared operation leaves in each field. -/

namespace Sys2Proof.Machine

variable (s : State)

/-! ### emit -/

@[simp] theorem emit_sec (c : Nibble) (d : Word32) : (emit c d s).sec = s.sec := rfl
@[simp] theorem emit_wp (c : Nibble) (d : Word32) : (emit c d s).wp = s.wp := rfl
@[simp] theorem emit_cv (c : Nibble) (d : Word32) : (emit c d s).cv = s.cv := rfl
@[simp] theorem emit_cvv (c : Nibble) (d : Word32) : (emit c d s).cvv = s.cvv := rfl
@[simp] theorem emit_kbu (c : Nibble) (d : Word32) : (emit c d s).kbu = s.kbu := rfl
@[simp] theorem emit_vst (c : Nibble) (d : Word32) : (emit c d s).vst = s.vst := rfl
@[simp] theorem emit_val (c : Nibble) (d : Word32) : (emit c d s).val = s.val := rfl
@[simp] theorem emit_adr (c : Nibble) (d : Word32) : (emit c d s).adr = s.adr := rfl
@[simp] theorem emit_flt (c : Nibble) (d : Word32) : (emit c d s).flt = s.flt := rfl
@[simp] theorem emit_hasAcchk (c : Nibble) (d : Word32) : (emit c d s).hasAcchk = s.hasAcchk := rfl
@[simp] theorem emit_pending (c : Nibble) (d : Word32) : (emit c d s).pending = s.pending := rfl
@[simp] theorem emit_received (c : Nibble) (d : Word32) : (emit c d s).received = ⟨c, d⟩ :: s.received := rfl

/-! ### respond -/

@[simp] theorem respond_sec (d : Word32) : (respond d s).sec = s.sec := rfl
@[simp] theorem respond_wp (d : Word32) : (respond d s).wp = s.wp := rfl
@[simp] theorem respond_cv (d : Word32) : (respond d s).cv = s.cv := rfl
@[simp] theorem respond_cvv (d : Word32) : (respond d s).cvv = s.cvv := rfl
@[simp] theorem respond_kbu (d : Word32) : (respond d s).kbu = s.kbu := rfl
@[simp] theorem respond_vst (d : Word32) : (respond d s).vst = s.vst := rfl
@[simp] theorem respond_val (d : Word32) : (respond d s).val = s.val := rfl
@[simp] theorem respond_adr (d : Word32) : (respond d s).adr = s.adr := rfl
@[simp] theorem respond_flt (d : Word32) : (respond d s).flt = s.flt := rfl
@[simp] theorem respond_hasAcchk (d : Word32) : (respond d s).hasAcchk = s.hasAcchk := rfl
@[simp] theorem respond_pending (d : Word32) : (respond d s).pending = s.pending := rfl
@[simp] theorem respond_received (d : Word32) : (respond d s).received = ⟨0x0#4, d⟩ :: s.received := rfl

/-! ### raise -/

@[simp] theorem raise_sec (e : ErrorCode) (d : Word32) : (raise e d s).sec = s.sec := rfl
@[simp] theorem raise_wp (e : ErrorCode) (d : Word32) : (raise e d s).wp = s.wp := rfl
@[simp] theorem raise_cv (e : ErrorCode) (d : Word32) : (raise e d s).cv = s.cv := rfl
@[simp] theorem raise_cvv (e : ErrorCode) (d : Word32) : (raise e d s).cvv = s.cvv := rfl
@[simp] theorem raise_kbu (e : ErrorCode) (d : Word32) : (raise e d s).kbu = s.kbu := rfl
@[simp] theorem raise_vst (e : ErrorCode) (d : Word32) : (raise e d s).vst = s.vst := rfl
@[simp] theorem raise_val (e : ErrorCode) (d : Word32) : (raise e d s).val = s.val := rfl
@[simp] theorem raise_adr (e : ErrorCode) (d : Word32) : (raise e d s).adr = s.adr := rfl
@[simp] theorem raise_flt (e : ErrorCode) (d : Word32) : (raise e d s).flt = e.bits := rfl
@[simp] theorem raise_hasAcchk (e : ErrorCode) (d : Word32) : (raise e d s).hasAcchk = s.hasAcchk := rfl
@[simp] theorem raise_pending (e : ErrorCode) (d : Word32) : (raise e d s).pending = s.pending := rfl
@[simp] theorem raise_received (e : ErrorCode) (d : Word32) : (raise e d s).received = ⟨e.bits, d⟩ :: s.received := rfl

/-! ### memWrite1 -/

@[simp] theorem memWrite1_sec (a : Nat) (v : Byte) : (memWrite1 a v s).sec = storeByte s.sec a v := rfl
@[simp] theorem memWrite1_wp (a : Nat) (v : Byte) : (memWrite1 a v s).wp = s.wp := rfl
@[simp] theorem memWrite1_cv (a : Nat) (v : Byte) : (memWrite1 a v s).cv = s.cv := rfl
@[simp] theorem memWrite1_cvv (a : Nat) (v : Byte) : (memWrite1 a v s).cvv = s.cvv := rfl
@[simp] theorem memWrite1_kbu (a : Nat) (v : Byte) : (memWrite1 a v s).kbu = s.kbu := rfl
@[simp] theorem memWrite1_vst (a : Nat) (v : Byte) : (memWrite1 a v s).vst = s.vst := rfl
@[simp] theorem memWrite1_val (a : Nat) (v : Byte) : (memWrite1 a v s).val = s.val := rfl
@[simp] theorem memWrite1_adr (a : Nat) (v : Byte) : (memWrite1 a v s).adr = s.adr := rfl
@[simp] theorem memWrite1_flt (a : Nat) (v : Byte) : (memWrite1 a v s).flt = s.flt := rfl
@[simp] theorem memWrite1_hasAcchk (a : Nat) (v : Byte) : (memWrite1 a v s).hasAcchk = s.hasAcchk := rfl
@[simp] theorem memWrite1_pending (a : Nat) (v : Byte) : (memWrite1 a v s).pending = s.pending := rfl
@[simp] theorem memWrite1_received (a : Nat) (v : Byte) : (memWrite1 a v s).received = s.received := rfl

/-! ### answerHalted -/

@[simp] theorem answerHalted_sec : (answerHalted s).sec = s.sec := rfl
@[simp] theorem answerHalted_wp : (answerHalted s).wp = s.wp := rfl
@[simp] theorem answerHalted_cv : (answerHalted s).cv = s.cv := rfl
@[simp] theorem answerHalted_cvv : (answerHalted s).cvv = s.cvv := rfl
@[simp] theorem answerHalted_kbu : (answerHalted s).kbu = s.kbu := rfl
@[simp] theorem answerHalted_vst : (answerHalted s).vst = s.vst := rfl
@[simp] theorem answerHalted_val : (answerHalted s).val = s.val := rfl
@[simp] theorem answerHalted_adr : (answerHalted s).adr = s.adr := rfl
@[simp] theorem answerHalted_flt : (answerHalted s).flt = s.flt := rfl
@[simp] theorem answerHalted_hasAcchk : (answerHalted s).hasAcchk = s.hasAcchk := rfl
@[simp] theorem answerHalted_pending : (answerHalted s).pending = s.pending := rfl
@[simp] theorem answerHalted_received : (answerHalted s).received = ⟨0xF#4, zext32 s.flt⟩ :: s.received := rfl

/-! ### clearResults -/

@[simp] theorem clearResults_sec : (clearResults s).sec = s.sec := rfl
@[simp] theorem clearResults_wp : (clearResults s).wp = 0#7 := rfl
@[simp] theorem clearResults_cv : (clearResults s).cv = ⟨0#3, 0#3, 0#3, 0#3⟩ := rfl
@[simp] theorem clearResults_cvv : (clearResults s).cvv = false := rfl
@[simp] theorem clearResults_kbu : (clearResults s).kbu = false := rfl
@[simp] theorem clearResults_vst : (clearResults s).vst = .unchecked := rfl
@[simp] theorem clearResults_val : (clearResults s).val = 0#32 := rfl
@[simp] theorem clearResults_adr : (clearResults s).adr = 0#8 := rfl
@[simp] theorem clearResults_flt : (clearResults s).flt = s.flt := rfl
@[simp] theorem clearResults_hasAcchk : (clearResults s).hasAcchk = s.hasAcchk := rfl
@[simp] theorem clearResults_pending : (clearResults s).pending = s.pending := rfl
@[simp] theorem clearResults_received : (clearResults s).received = s.received := rfl

/-! ### applyReset -/

@[simp] theorem applyReset_sec : (applyReset s).sec = [] := rfl
@[simp] theorem applyReset_wp : (applyReset s).wp = 0#7 := rfl
@[simp] theorem applyReset_cv : (applyReset s).cv = ⟨0#3, 0#3, 0#3, 0#3⟩ := rfl
@[simp] theorem applyReset_cvv : (applyReset s).cvv = false := rfl
@[simp] theorem applyReset_kbu : (applyReset s).kbu = false := rfl
@[simp] theorem applyReset_vst : (applyReset s).vst = .unchecked := rfl
@[simp] theorem applyReset_val : (applyReset s).val = 0#32 := rfl
@[simp] theorem applyReset_adr : (applyReset s).adr = 0#8 := rfl
@[simp] theorem applyReset_flt : (applyReset s).flt = 0#4 := rfl
@[simp] theorem applyReset_hasAcchk : (applyReset s).hasAcchk = s.hasAcchk := rfl
@[simp] theorem applyReset_pending : (applyReset s).pending = s.pending := rfl
@[simp] theorem applyReset_received : (applyReset s).received = s.received := rfl

/-! ### recordCheck -/

@[simp] theorem recordCheck_sec (st : CheckStatus) (v : Word32) (a : Byte) : (recordCheck st v a s).sec = s.sec := rfl
@[simp] theorem recordCheck_wp (st : CheckStatus) (v : Word32) (a : Byte) : (recordCheck st v a s).wp = s.wp := rfl
@[simp] theorem recordCheck_cv (st : CheckStatus) (v : Word32) (a : Byte) : (recordCheck st v a s).cv = s.cv := rfl
@[simp] theorem recordCheck_cvv (st : CheckStatus) (v : Word32) (a : Byte) : (recordCheck st v a s).cvv = s.cvv := rfl
@[simp] theorem recordCheck_kbu (st : CheckStatus) (v : Word32) (a : Byte) : (recordCheck st v a s).kbu = s.kbu := rfl
@[simp] theorem recordCheck_vst (st : CheckStatus) (v : Word32) (a : Byte) : (recordCheck st v a s).vst = st := rfl
@[simp] theorem recordCheck_val (st : CheckStatus) (v : Word32) (a : Byte) : (recordCheck st v a s).val = v := rfl
@[simp] theorem recordCheck_adr (st : CheckStatus) (v : Word32) (a : Byte) : (recordCheck st v a s).adr = a := rfl
@[simp] theorem recordCheck_flt (st : CheckStatus) (v : Word32) (a : Byte) : (recordCheck st v a s).flt = s.flt := rfl
@[simp] theorem recordCheck_hasAcchk (st : CheckStatus) (v : Word32) (a : Byte) : (recordCheck st v a s).hasAcchk = s.hasAcchk := rfl
@[simp] theorem recordCheck_pending (st : CheckStatus) (v : Word32) (a : Byte) : (recordCheck st v a s).pending = s.pending := rfl
@[simp] theorem recordCheck_received (st : CheckStatus) (v : Word32) (a : Byte) : (recordCheck st v a s).received = ⟨0x0#4, zext32 st.code⟩ :: s.received := rfl

/-! ### presentWord -/

@[simp] theorem presentWord_sec (w : Word16) : (presentWord w s).sec = s.sec := rfl
@[simp] theorem presentWord_wp (w : Word16) : (presentWord w s).wp = s.wp := rfl
@[simp] theorem presentWord_cv (w : Word16) : (presentWord w s).cv = s.cv := rfl
@[simp] theorem presentWord_cvv (w : Word16) : (presentWord w s).cvv = s.cvv := rfl
@[simp] theorem presentWord_kbu (w : Word16) : (presentWord w s).kbu = s.kbu := rfl
@[simp] theorem presentWord_vst (w : Word16) : (presentWord w s).vst = s.vst := rfl
@[simp] theorem presentWord_val (w : Word16) : (presentWord w s).val = s.val := rfl
@[simp] theorem presentWord_adr (w : Word16) : (presentWord w s).adr = s.adr := rfl
@[simp] theorem presentWord_flt (w : Word16) : (presentWord w s).flt = s.flt := rfl
@[simp] theorem presentWord_hasAcchk (w : Word16) : (presentWord w s).hasAcchk = (s.hasAcchk || w == encode .acchk) := rfl
@[simp] theorem presentWord_pending (w : Word16) : (presentWord w s).pending = .command w :: s.pending := rfl
@[simp] theorem presentWord_received (w : Word16) : (presentWord w s).received = s.received := rfl

/-! ### okAnswer -/

@[simp] theorem okAnswer_sec (d : Word32) : (okAnswer d s).sec = s.sec := rfl
@[simp] theorem okAnswer_wp (d : Word32) : (okAnswer d s).wp = s.wp := rfl
@[simp] theorem okAnswer_cv (d : Word32) : (okAnswer d s).cv = s.cv := rfl
@[simp] theorem okAnswer_cvv (d : Word32) : (okAnswer d s).cvv = s.cvv := rfl
@[simp] theorem okAnswer_kbu (d : Word32) : (okAnswer d s).kbu = s.kbu := rfl
@[simp] theorem okAnswer_vst (d : Word32) : (okAnswer d s).vst = s.vst := rfl
@[simp] theorem okAnswer_val (d : Word32) : (okAnswer d s).val = s.val := rfl
@[simp] theorem okAnswer_adr (d : Word32) : (okAnswer d s).adr = s.adr := rfl
@[simp] theorem okAnswer_flt (d : Word32) : (okAnswer d s).flt = s.flt := rfl
@[simp] theorem okAnswer_hasAcchk (d : Word32) : (okAnswer d s).hasAcchk = s.hasAcchk := rfl
@[simp] theorem okAnswer_pending (d : Word32) : (okAnswer d s).pending = s.pending := rfl
@[simp] theorem okAnswer_received (d : Word32) : (okAnswer d s).received = ⟨0x0#4, d⟩ :: s.received := rfl

/-! ### errorAnswer -/

@[simp] theorem errorAnswer_sec (c : Nibble) (w : Word16) : (errorAnswer c w s).sec = s.sec := rfl
@[simp] theorem errorAnswer_wp (c : Nibble) (w : Word16) : (errorAnswer c w s).wp = s.wp := rfl
@[simp] theorem errorAnswer_cv (c : Nibble) (w : Word16) : (errorAnswer c w s).cv = s.cv := rfl
@[simp] theorem errorAnswer_cvv (c : Nibble) (w : Word16) : (errorAnswer c w s).cvv = s.cvv := rfl
@[simp] theorem errorAnswer_kbu (c : Nibble) (w : Word16) : (errorAnswer c w s).kbu = s.kbu := rfl
@[simp] theorem errorAnswer_vst (c : Nibble) (w : Word16) : (errorAnswer c w s).vst = s.vst := rfl
@[simp] theorem errorAnswer_val (c : Nibble) (w : Word16) : (errorAnswer c w s).val = s.val := rfl
@[simp] theorem errorAnswer_adr (c : Nibble) (w : Word16) : (errorAnswer c w s).adr = s.adr := rfl
@[simp] theorem errorAnswer_flt (c : Nibble) (w : Word16) : (errorAnswer c w s).flt = c := rfl
@[simp] theorem errorAnswer_hasAcchk (c : Nibble) (w : Word16) : (errorAnswer c w s).hasAcchk = s.hasAcchk := rfl
@[simp] theorem errorAnswer_pending (c : Nibble) (w : Word16) : (errorAnswer c w s).pending = s.pending := rfl
@[simp] theorem errorAnswer_received (c : Nibble) (w : Word16) : (errorAnswer c w s).received = ⟨c, w.setWidth 32⟩ :: s.received := rfl

end Sys2Proof.Machine
end

