-- ==== Sys2Proof/Laws/Ops.lean ====
section
/-! SUPPORT. What each shared operation does, said once: the sector buffer, the checks, the step's frame. -/

namespace Sys2Proof.Machine

/-! ### The sector buffer -/

@[simp] theorem loadedByte_nil (a : Nat) : loadedByte [] a = none := rfl

/-- A loaded byte reads back, and a load leaves every other offset alone. -/
theorem loadedByte_storeByte (m : Memory) (a b : Nat) (v : Byte) :
    loadedByte (storeByte m a v) b = if b = a then some v else loadedByte m b := by
  induction m with
  | nil => simp [storeByte, loadedByte]
  | cons c m ih =>
    obtain ⟨k, u⟩ := c
    simp only [storeByte]
    split
    · simp [loadedByte]
    · split
      · subst_vars
        by_cases h : b = k <;> simp [loadedByte, h]
      · by_cases hk : b = k
        · subst hk
          have : ¬ b = a := fun h => by simp_all
          simp [loadedByte, this]
        · simp [loadedByte, hk, ih]

theorem mem_storeByte {m : Memory} {a : Nat} {v : Byte} {c : Host.Cell} (h : c ∈ storeByte m a v) :
    c = (a, v) ∨ c ∈ m := by
  induction m with
  | nil => simpa [storeByte] using h
  | cons d m ih =>
    obtain ⟨k, u⟩ := d
    simp only [storeByte] at h
    split at h
    · simpa using h
    · split at h
      · simp only [List.mem_cons] at h ⊢
        tauto
      · simp only [List.mem_cons] at h ⊢
        rcases h with h | h
        · exact .inr (.inl h)
        · rcases ih h with h | h
          · exact .inl h
          · exact .inr (.inr h)

/-- A store inside the buffer keeps its canonical form. -/
theorem storeByte_wf {m : Memory} {a : Nat} (v : Byte) (ha : a < 64) (h : Memory.wf m) :
    Memory.wf (storeByte m a v) := by
  refine ⟨?_, fun c hc => ?_⟩
  · obtain ⟨h, -⟩ := h
    induction m with
    | nil => simp [storeByte]
    | cons d m ih =>
      obtain ⟨k, u⟩ := d
      rw [List.pairwise_cons] at h
      simp only [storeByte]
      split
      · rename_i hlt
        refine List.pairwise_cons.2 ⟨fun c hc => ?_, List.pairwise_cons.2 h⟩
        rcases List.mem_cons.1 hc with rfl | hc
        · exact hlt
        · exact Nat.lt_trans hlt (h.1 c hc)
      · split
        · subst_vars
          exact List.pairwise_cons.2 h
        · refine List.pairwise_cons.2 ⟨fun c hc => ?_, ih h.2⟩
          rcases mem_storeByte hc with rfl | hc
          · simp only; omega
          · exact h.1 c hc
  · rcases mem_storeByte hc with rfl | hc
    · exact ha
    · exact h.2 c hc

theorem reset_wf : Memory.wf State.reset.sec := by decide

/-- Reading after a write. -/
theorem memRead1_memWrite1 (s : State) (a b : Nat) (v : Byte) :
    memRead1 (memWrite1 a v s) b = if b = a then v else memRead1 s b := by
  simp only [memRead1, memWrite1_sec, loadedByte_storeByte]
  split <;> rfl

/-- A byte depends on the buffer alone. -/
theorem memRead1_congr {s t : State} (h : s.sec = t.sec) (a : Nat) : memRead1 s a = memRead1 t a := by
  simp [memRead1, h]

/-! ### The checks -/

@[simp] theorem full_iff (s : State) : full s = true ↔ s.wp = 64#7 := by simp [full]

@[simp] theorem full_false_iff (s : State) : full s = false ↔ s.wp ≠ 64#7 := by simp [full]

@[simp] theorem isBlock_iff (j : Nibble) : isBlock j = true ↔ j.toNat ≤ 3 := by simp [isBlock]

@[simp] theorem isDataBlock_iff (j : Nibble) : isDataBlock j = true ↔ j.toNat ≤ 2 := by simp [isDataBlock]

@[simp] theorem demand_true (e : ErrorCode) (i : Instr) (s : State) (go : Result) : demand true e i s go = go := rfl

@[simp] theorem demand_false (e : ErrorCode) (i : Instr) (s : State) (go : Result) :
    demand false e i s go = .next (errorAnswer e.bits (encode i) s) := rfl

/-- Everything `demand` can do. -/
theorem demand_cases (ok : Bool) (e : ErrorCode) (i : Instr) (s : State) (go : Result) :
    (ok = true ∧ demand ok e i s go = go) ∨
      (ok = false ∧ demand ok e i s go = .next (errorAnswer e.bits (encode i) s)) := by
  cases ok <;> simp

/-! ### The step's frame -/

/-- Everything a step can be. -/
theorem step_cases (s : State) :
    (s.pending = [] ∧ step s = .next s) ∨
    (∃ rest, s.pending = .reset :: rest ∧ step s = .next (applyReset { s with pending := rest })) ∨
    (∃ w rest, s.pending = .command w :: rest ∧
      ((s.flt ≠ 0#4 ∧ step s = .next (answerHalted { s with pending := rest })) ∨
       (s.flt = 0#4 ∧ ∃ why, decode s.hasAcchk w = .error why ∧
          step s = .next (errorAnswer 0x2#4 w { s with pending := rest })) ∨
       (s.flt = 0#4 ∧ ∃ i, decode s.hasAcchk w = .ok i ∧ step s = exec i { s with pending := rest }))) := by
  cases hp : s.pending with
  | nil => exact .inl ⟨rfl, by simp [step, fetch, hp]⟩
  | cons m rest =>
    cases m with
    | reset => exact .inr (.inl ⟨rest, rfl, by simp [step, fetch, hp]⟩)
    | command w =>
      refine .inr (.inr ⟨w, rest, rfl, ?_⟩)
      by_cases hf : s.flt = 0#4
      · cases hd : decode s.hasAcchk w with
        | error why =>
          refine .inr (.inl ⟨hf, why, rfl, ?_⟩)
          simp [step, fetch, hp, takeWord, halted, hf, hd]
          rfl
        | ok i =>
          refine .inr (.inr ⟨hf, i, rfl, ?_⟩)
          simp [step, fetch, hp, takeWord, halted, hf, hd]
      · exact .inl ⟨hf, by simp [step, fetch, hp, takeWord, halted, hf]⟩

end Sys2Proof.Machine
end

