-- ==== Sys2Proof/Laws/Meanings.lean ====
section
/-! SUPPORT. What the meanings can do, said once: a command either raises one error or has its whole effect. -/

namespace Sys2Proof.Machine

/-- The state after a command that raised no error. -/
def effectOf (i : Instr) (s : State) : State :=
  match i with
  | .nop => okAnswer 0#32 s
  | .clr => okAnswer 0#32 (clearResults s)
  | .push imm => okAnswer 0#32 { memWrite1 s.wp.toNat imm s with wp := s.wp + 1#7 }
  | .acdec => okAnswer 0#32
      { s with cv := acd (memRead1 s 55) (memRead1 s 56),
               kbu := kbuOf (acd (memRead1 s 55) (memRead1 s 56)).b3, cvv := true }
  | .rdcv j => okAnswer (zext32 (s.cv.vec j)) s
  | .keyb => okAnswer (zext32 (BitVec.ofBool s.kbu)) s
  | .role j => okAnswer (zext32 (roleOf (s.cv.vec j)).code) s
  | .dflg j => okAnswer (zext32 (BitVec.ofBool (dflagOf (s.cv.vec j)))) s
  | .vcand j => okAnswer (zext32 (BitVec.ofBool (vcandOf (s.cv.vec j)))) s
  | .vbchk j =>
    if vcandOf (s.cv.vec j) then
      if (vbv (blockBytes s j)).ok then
        recordCheck .value (vbv (blockBytes s j)).value (vbv (blockBytes s j)).address s
      else recordCheck .malformed 0#32 0#8 s
    else recordCheck .plain 0#32 0#8 s
  | .rdreg r =>
    match Reg.ofNumber r with
    | some reg => okAnswer (regValue s reg) s
    | none => s
  | .acchk => okAnswer
      (zext32 (BitVec.ofBool (complementsAgree (memRead1 s 54) (memRead1 s 55) (memRead1 s 56)))) s

/-- The shape the three lookups share, as its two outcomes. -/
theorem lookup_cases (i : Instr) (j : Nibble) (answer : CondVec → Word32) (s : State) :
    (∃ e : ErrorCode, lookup i j answer s = .next (errorAnswer e.bits (encode i) s)) ∨
      (j.toNat ≤ 2 ∧ s.wp = 64#7 ∧ s.cvv = true ∧
        lookup i j answer s = .next (okAnswer (answer (s.cv.vec j)) s)) := by
  simp only [lookup]
  rcases demand_cases (isDataBlock j) .range i s _ with ⟨hj, h⟩ | ⟨-, h⟩ <;> rw [h]
  · rcases demand_cases (full s) .size i s _ with ⟨hf, h⟩ | ⟨-, h⟩ <;> rw [h]
    · rcases demand_cases s.cvv .nodec i s _ with ⟨hd, h⟩ | ⟨-, h⟩ <;> rw [h]
      · exact .inr ⟨by simpa using hj, by simpa using hf, hd, rfl⟩
      · exact .inl ⟨_, rfl⟩
    · exact .inl ⟨_, rfl⟩
  · exact .inl ⟨_, rfl⟩

/-- What holds of the operand and the state when a command has its effect. -/
structure Admitted (i : Instr) (s : State) : Prop where
  operand : operandLegal i = true
  full : needsFull i = true → s.wp = 64#7
  decoded : needsDecoded i = true → s.cvv = true
  room : needsRoom i = true → s.wp.toNat < 64

theorem reg_of_legal_number {r : Nibble} (h : Reg.ofNumber r ≠ none) : r.toNat ≤ 4 := by
  revert r; decide

/-- Every command either raises one error, precisely, or is admitted and has its whole effect. -/
theorem exec_cases (i : Instr) (s : State) :
    (∃ e : ErrorCode, exec i s = .next (errorAnswer e.bits (encode i) s)) ∨
      (Admitted i s ∧ exec i s = .next (effectOf i s)) := by
  cases i with
  | nop => exact .inr ⟨⟨rfl, nofun, nofun, nofun⟩, rfl⟩
  | clr => exact .inr ⟨⟨rfl, nofun, nofun, nofun⟩, rfl⟩
  | push imm =>
    simp only [exec, execPush]
    rcases demand_cases (decide (s.wp.toNat < Config.sectorBytes)) .ovf (.push imm) s _ with ⟨hr, h⟩ | ⟨-, h⟩ <;> rw [h]
    · exact .inr ⟨⟨rfl, nofun, nofun, fun _ => of_decide_eq_true hr⟩, rfl⟩
    · exact .inl ⟨_, rfl⟩
  | acdec =>
    simp only [exec, execAcdec]
    rcases demand_cases (full s) .size .acdec s _ with ⟨hf, h⟩ | ⟨-, h⟩ <;> rw [h]
    · exact .inr ⟨⟨rfl, fun _ => (full_iff s).1 hf, nofun, nofun⟩, rfl⟩
    · exact .inl ⟨_, rfl⟩
  | rdcv j =>
    simp only [exec, execRdcv]
    rcases demand_cases (isBlock j) .range (.rdcv j) s _ with ⟨hj, h⟩ | ⟨-, h⟩ <;> rw [h]
    · rcases demand_cases (full s) .size (.rdcv j) s _ with ⟨hf, h⟩ | ⟨-, h⟩ <;> rw [h]
      · rcases demand_cases s.cvv .nodec (.rdcv j) s _ with ⟨hd, h⟩ | ⟨-, h⟩ <;> rw [h]
        · exact .inr ⟨⟨hj, fun _ => (full_iff s).1 hf, fun _ => hd, nofun⟩, rfl⟩
        · exact .inl ⟨_, rfl⟩
      · exact .inl ⟨_, rfl⟩
    · exact .inl ⟨_, rfl⟩
  | keyb =>
    simp only [exec, execKeyb]
    rcases demand_cases (full s) .size .keyb s _ with ⟨hf, h⟩ | ⟨-, h⟩ <;> rw [h]
    · rcases demand_cases s.cvv .nodec .keyb s _ with ⟨hd, h⟩ | ⟨-, h⟩ <;> rw [h]
      · exact .inr ⟨⟨rfl, fun _ => (full_iff s).1 hf, fun _ => hd, nofun⟩, rfl⟩
      · exact .inl ⟨_, rfl⟩
    · exact .inl ⟨_, rfl⟩
  | role j =>
    rcases lookup_cases (.role j) j (fun c => zext32 (roleOf c).code) s with h | ⟨hj, hf, hd, h⟩
    · exact .inl h
    · exact .inr ⟨⟨decide_eq_true hj, fun _ => hf, fun _ => hd, nofun⟩, h⟩
  | dflg j =>
    rcases lookup_cases (.dflg j) j (fun c => zext32 (BitVec.ofBool (dflagOf c))) s with h | ⟨hj, hf, hd, h⟩
    · exact .inl h
    · exact .inr ⟨⟨decide_eq_true hj, fun _ => hf, fun _ => hd, nofun⟩, h⟩
  | vcand j =>
    rcases lookup_cases (.vcand j) j (fun c => zext32 (BitVec.ofBool (vcandOf c))) s with h | ⟨hj, hf, hd, h⟩
    · exact .inl h
    · exact .inr ⟨⟨decide_eq_true hj, fun _ => hf, fun _ => hd, nofun⟩, h⟩
  | vbchk j =>
    simp only [exec, execVbchk]
    rcases demand_cases (isDataBlock j) .range (.vbchk j) s _ with ⟨hj, h⟩ | ⟨-, h⟩ <;> rw [h]
    · rcases demand_cases (full s) .size (.vbchk j) s _ with ⟨hf, h⟩ | ⟨-, h⟩ <;> rw [h]
      · rcases demand_cases s.cvv .nodec (.vbchk j) s _ with ⟨hd, h⟩ | ⟨-, h⟩ <;> rw [h]
        · refine .inr ⟨⟨hj, fun _ => (full_iff s).1 hf, fun _ => hd, nofun⟩, ?_⟩
          simp only [effectOf]
          split
          · split <;> rfl
          · rfl
        · exact .inl ⟨_, rfl⟩
      · exact .inl ⟨_, rfl⟩
    · exact .inl ⟨_, rfl⟩
  | rdreg r =>
    cases hr : Reg.ofNumber r with
    | some reg =>
      refine .inr ⟨⟨decide_eq_true (reg_of_legal_number (by simp [hr])), nofun, nofun, nofun⟩, ?_⟩
      simp only [exec, execRdreg, effectOf, hr]
      rfl
    | none => exact .inl ⟨.range, by simp only [exec, execRdreg, hr]; rfl⟩
  | acchk =>
    simp only [exec, execAcchk]
    rcases demand_cases (full s) .size .acchk s _ with ⟨hf, h⟩ | ⟨-, h⟩ <;> rw [h]
    · exact .inr ⟨⟨rfl, fun _ => (full_iff s).1 hf, nofun, nofun⟩, rfl⟩
    · exact .inl ⟨_, rfl⟩

end Sys2Proof.Machine
end

