-- ==== Sys2Proof/Laws/PerInstr.lean ====
section
/-! SUPPORT. Statements made per command: every command's word lies in its own row of the opcode map (R47). -/

namespace Sys2Proof.Laws.EncodedInOwnRow

/-- The word of a command lies in the command's row of R47. -/
def Statement (i : Instr) : Prop := (opcodeRow i).covers (encode i) = true

theorem nop : Statement .nop := by unfold Statement; decide
theorem clr : Statement .clr := by unfold Statement; decide
theorem push (imm : Byte) : Statement (.push imm) := by unfold Statement; revert imm; decide
theorem acdec : Statement .acdec := by unfold Statement; decide
theorem rdcv (j : Nibble) : Statement (.rdcv j) := by unfold Statement; revert j; decide
theorem keyb : Statement .keyb := by unfold Statement; decide
theorem role (j : Nibble) : Statement (.role j) := by unfold Statement; revert j; decide
theorem dflg (j : Nibble) : Statement (.dflg j) := by unfold Statement; revert j; decide
theorem vcand (j : Nibble) : Statement (.vcand j) := by unfold Statement; revert j; decide
theorem vbchk (j : Nibble) : Statement (.vbchk j) := by unfold Statement; revert j; decide
theorem rdreg (r : Nibble) : Statement (.rdreg r) := by unfold Statement; revert r; decide
theorem acchk : Statement .acchk := by unfold Statement; decide

end Sys2Proof.Laws.EncodedInOwnRow
end

