-- ==== Sys2Proof/Laws/Runs.lean ====
section
/-! SUPPORT. Runs, step by step. -/

namespace Sys2Proof.Machine

@[simp] theorem runSteps_zero (s : State) : runSteps 0 s = .next s := rfl

/-- A run's first step. -/
theorem runSteps_succ (k : Nat) {s t : State} (h : step s = .next t) : runSteps (k + 1) s = runSteps k t := by
  have hc : Sys2Proof.core.step s = .next t := h
  simp only [runSteps, Host.Core.run]
  rw [hc]

/-- A run in two parts. -/
theorem runSteps_add (j k : Nat) {s t : State} (h : runSteps j s = .next t) : runSteps (j + k) s = runSteps k t := by
  induction j generalizing s with
  | zero => cases h; rw [Nat.zero_add]
  | succ j ih =>
    rw [show j + 1 + k = (j + k) + 1 by omega]
    cases hs : step s with
    | next u =>
      rw [runSteps_succ j hs] at h
      rw [runSteps_succ (j + k) hs]
      exact ih h
    | fault f => cases f
    | refused r =>
      have hc : Sys2Proof.core.step s = .refused r := hs
      simp only [runSteps, Host.Core.run] at h
      rw [hc] at h
      cases h

/-- What every step keeps, every run keeps. -/
theorem runSteps_keeps {P : State → Prop} (hstep : ∀ s t, P s → step s = .next t → P t) (k : Nat) {s t : State}
    (h : P s) (hrun : runSteps k s = .next t) : P t := by
  induction k generalizing s with
  | zero => cases hrun; exact h
  | succ k ih =>
    cases hs : step s with
    | next u =>
      rw [runSteps_succ k hs] at hrun
      exact ih (hstep s u h hs) hrun
    | fault f => cases f
    | refused r =>
      have hc : Sys2Proof.core.step s = .refused r := hs
      simp only [runSteps, Host.Core.run] at hrun
      rw [hc] at hrun
      cases hrun

end Sys2Proof.Machine
end

