-- ==== Sys2Proof/Tests/Slice0.lean ====
section
/-! SUPPORT. The model's own tests. Every expected value is one that spec/95_test_vectors.md prints (the vector is
named) or a worked example of the rule named; then, for each statement with hypotheses, states and operands that meet
them. -/

namespace Sys2Proof.Machine.Tests

/-! ### Helpers -/

/-- The response of a step, if it gave one. -/
def answerOf : Result → Option Response
  | .next t => t.received.head?
  | .fault _ => none
  | .refused _ => none

/-- What a test looks at in the state after a step. -/
def viewOf {α : Type} (o : Result) (f : State → α) : Option α :=
  match o with
  | .next t => some (f t)
  | .fault _ => none
  | .refused _ => none

/-- A running block with a full buffer of which these bytes matter. -/
def fullWith (bytes : Memory) : State := { State.reset with sec := bytes, wp := 64#7 }

/-- The same, decoded, with this table. -/
def decodedWith (bytes : Memory) (table : CvTable) : State :=
  { fullWith bytes with cv := table, cvv := true, kbu := kbuOf table.b3 }

/-- Sixteen bytes as block `j` of the buffer. -/
def blockCells (j : Nat) (bytes : List Byte) : Memory := (List.range 16).map fun k => (16 * j + k, bytes.getD k 0#8)

/-- The table of vector V-ACD-13: [111, 110, 101, 000]. -/
def tableA : CvTable := ⟨0b111#3, 0b110#3, 0b101#3, 0b000#3⟩

/-- The table of vector V-ACD-10: [000, 110, 001, 011]. -/
def tableB : CvTable := ⟨0b000#3, 0b110#3, 0b001#3, 0b011#3⟩

/-- The block of vector V-VBV-7. -/
def blockV7 : List Byte :=
  [0x78#8, 0x56#8, 0x34#8, 0x12#8, 0x87#8, 0xA9#8, 0xCB#8, 0xED#8, 0x78#8, 0x56#8, 0x34#8, 0x12#8, 0xA5#8, 0x5A#8,
    0xA5#8, 0x5A#8]

/-- The block of vector V-VBV-15: one bit wrong in byte 5. -/
def blockV15 : List Byte :=
  [0xFE#8, 0xFF#8, 0xFF#8, 0xFF#8, 0x01#8, 0x10#8, 0x00#8, 0x00#8, 0xFE#8, 0xFF#8, 0xFF#8, 0xFF#8, 0x21#8, 0xDE#8,
    0x21#8, 0xDE#8]

/-- The block of vector V-VBV-13: `a3 ≠ a1` although `a3 = a4 ^ FF`. -/
def blockV13 : List Byte :=
  [0x64#8, 0x00#8, 0x00#8, 0x00#8, 0x9B#8, 0xFF#8, 0xFF#8, 0xFF#8, 0x64#8, 0x00#8, 0x00#8, 0x00#8, 0x07#8, 0xF8#8,
    0x08#8, 0xF7#8]

/-- A list as the sixteen bytes of a block. -/
def bytesOf (l : List Byte) : BlockBytes := fun k => l.getD k.val 0#8

/-- A run's next step on one word. -/
def stepOn (s : State) (w : Word16) : Result := step { s with pending := [.command w] }

/-! ### WellFormed: the one check, refused and passed -/

theorem test_wellFormed_refuses_absent_acchk : Instr.acchk.wellFormed false = false := by decide
theorem test_wellFormed_admits_fitted_acchk : Instr.acchk.wellFormed true = true := by decide

/-! ### Decoding: the words of R47, every command -/

theorem test_decode_nop : decode false 0b0000000000000000#16 = .ok .nop := by decide
theorem test_decode_clr : decode false 0b0001000000000000#16 = .ok .clr := by decide
theorem test_decode_push : decode false 0b0010000010101011#16 = .ok (.push 0xAB#8) := by decide
theorem test_decode_acdec : decode false 0b0011000000000000#16 = .ok .acdec := by decide
theorem test_decode_rdcv : decode false 0b0100001100000000#16 = .ok (.rdcv 3#4) := by decide
theorem test_decode_keyb : decode false 0b0101000000000000#16 = .ok .keyb := by decide
theorem test_decode_role : decode false 0b0110111100000000#16 = .ok (.role 15#4) := by decide
theorem test_decode_dflg : decode false 0b0111001000000000#16 = .ok (.dflg 2#4) := by decide
theorem test_decode_vcand : decode false 0b1000000100000000#16 = .ok (.vcand 1#4) := by decide
theorem test_decode_vbchk : decode false 0b1001001000000000#16 = .ok (.vbchk 2#4) := by decide
theorem test_decode_rdreg : decode false 0b1010010000000000#16 = .ok (.rdreg 4#4) := by decide
theorem test_decode_acchk : decode true 0b1011000000000000#16 = .ok .acchk := by decide

/-- V-ENC-1 to V-ENC-7: the words the spec refuses. -/
theorem test_decode_refuses :
    decode false 0x0001#16 = .error .immNotZero ∧ decode false 0x1100#16 = .error .aNotZero ∧
    decode false 0x2100#16 = .error .aNotZero ∧ decode false 0x3001#16 = .error .immNotZero ∧
    decode false 0xC000#16 = .error .reservedOpcode ∧ decode false 0xF123#16 = .error .reservedOpcode ∧
    decode false 0xB000#16 = .error .acchkAbsent := by decide

/-- Every row of the table, as the host numbers it, with operand words of zeros, and the first step on it. -/
theorem test_table_words_decode :
    [0x0000, 0x1000, 0x2000, 0x3000, 0x4000, 0x5000, 0x6000, 0x7000, 0x8000, 0x9000, 0xA000, 0xB000].map
        (decodeTableWord 16) =
      [some .nop, some .clr, some (.push 0#8), some .acdec, some (.rdcv 0#4), some .keyb, some (.role 0#4),
        some (.dflg 0#4), some (.vcand 0#4), some (.vbchk 0#4), some (.rdreg 0#4), some .acchk] := by decide

/-- The step on the word of `ACCHK` placed by `withFetchWord` runs it: V-ENC-8, `E_SIZE`, not `E_ILLCMD`. -/
theorem test_fetch_word_acchk :
    answerOf (step (State.reset.withFetchWord 16 0xB000)) = some ⟨0x1#4, 0x0000B000#32⟩ := by decide

/-! ### One step per command -/

/-- V-SYS-1 -/
theorem test_nop_reset : stepOn State.reset 0x0000#16 = .next { State.reset with received := [⟨0#4, 0#32⟩] } := by
  rfl
/-- V-ERR-7 -/
theorem test_nop_halted : answerOf (stepOn { State.reset with flt := 3#4 } 0x0000#16) = some ⟨0xF#4, 3#32⟩ := by decide

/-- V-SYS-10: after a full decode, `CLR` leaves `STAT` 0. -/
theorem test_clr_stat : viewOf (stepOn (decodedWith [] tableB) 0x1000#16) statView = some 0#32 := by decide
/-- V-ERR-9 -/
theorem test_clr_halted : answerOf (stepOn { State.reset with flt := 1#4 } 0x1000#16) = some ⟨0xF#4, 1#32⟩ := by decide

/-- V-SYS-3 -/
theorem test_push_first :
    viewOf (stepOn State.reset 0x20AB#16) (fun t => (t.sec, t.wp, t.received)) =
      some ([(0, 0xAB#8)], 1#7, [⟨0#4, 0#32⟩]) := by decide
/-- V-SYS-5 -/
theorem test_push_full :
    viewOf (stepOn (fullWith []) 0x2001#16) (fun t => (t.sec, t.flt, t.received)) =
      some ([], 5#4, [⟨5#4, 0x00002001#32⟩]) := by decide

/-- V-ACD-12: B = 8A, C = 56 gives [001, 010, 011, 100] and Key B usable. -/
theorem test_acdec_orientation :
    viewOf (stepOn (fullWith [(55, 0x8A#8), (56, 0x56#8)]) 0x3000#16) (fun t => (t.cv, t.kbu, t.cvv)) =
      some (⟨0b001#3, 0b010#3, 0b011#3, 0b100#3⟩, true, true) := by decide
/-- P3, step 66: one byte short, refused although bytes 55 and 56 are there. -/
theorem test_acdec_short :
    answerOf (stepOn { fullWith [(55, 0#8), (56, 0#8)] with wp := 63#7 } 0x3000#16) = some ⟨1#4, 0x00003000#32⟩ := by
  decide

/-- The vectors of V-ACD-10 by index. -/
theorem test_rdcv_index : answerOf (stepOn (decodedWith [] tableB) 0x4100#16) = some ⟨0#4, 0b110#32⟩ := by decide
/-- V-ERR-2: `E_RANGE` before `E_SIZE`. -/
theorem test_rdcv_range : answerOf (stepOn State.reset 0x4400#16) = some ⟨3#4, 0x00004400#32⟩ := by decide

/-- V-ACD-10: the trailer's vector 011 makes Key B usable. -/
theorem test_keyb_usable : answerOf (stepOn (decodedWith [] tableB) 0x5000#16) = some ⟨0#4, 1#32⟩ := by decide
/-- V-ERR-6 -/
theorem test_keyb_not_decoded : answerOf (stepOn (fullWith []) 0x5000#16) = some ⟨4#4, 0x00005000#32⟩ := by decide

/-- V-CLS-3: `ROLE 2` = 2. -/
theorem test_role_read_only : answerOf (stepOn (decodedWith [] tableA) 0x6200#16) = some ⟨0#4, 2#32⟩ := by decide
/-- V-ERR-5: `E_RANGE` before `E_NODEC`. -/
theorem test_role_trailer : answerOf (stepOn (fullWith []) 0x6300#16) = some ⟨3#4, 0x00006300#32⟩ := by decide

/-- V-CLS-3: `DFLG 0..2` = 0, 1, 0. -/
theorem test_dflg_all :
    [0x7000#16, 0x7100#16, 0x7200#16].map (fun w => answerOf (stepOn (decodedWith [] tableA) w)) =
      [some ⟨0#4, 0#32⟩, some ⟨0#4, 1#32⟩, some ⟨0#4, 0#32⟩] := by decide

/-- V-CLS-1, row 000: a transport block has the "d" flag and is no candidate. -/
theorem test_vcand_transport : answerOf (stepOn (decodedWith [] tableB) 0x8000#16) = some ⟨0#4, 0#32⟩ := by decide
/-- The example of R75. -/
theorem test_vcand_candidate : answerOf (stepOn (decodedWith [] tableB) 0x8200#16) = some ⟨0#4, 1#32⟩ := by decide

/-- V-VBV-7: the byte order of the value. -/
theorem test_vbchk_value :
    viewOf (stepOn (decodedWith (blockCells 1 blockV7) tableB) 0x9100#16)
        (fun t => (t.vst, t.val, t.adr, t.received)) =
      some (.value, 0x12345678#32, 0xA5#8, [⟨0#4, 2#32⟩]) := by decide
/-- V-VBV-15, P2 step 80: malformed is no error, and an earlier value is gone. -/
theorem test_vbchk_malformed :
    viewOf (stepOn { decodedWith (blockCells 2 blockV15) tableB with vst := .value, val := 100#32, adr := 7#8 } 0x9200#16)
        (fun t => (t.vst, t.val, t.adr, t.flt, t.received)) =
      some (.malformed, 0#32, 0#8, 0#4, [⟨0#4, 3#32⟩]) := by decide

/-- V-SYS-9: `STAT` = 0x17. -/
theorem test_rdreg_stat :
    answerOf (stepOn { decodedWith [] tableB with vst := .value } 0xA000#16) = some ⟨0#4, 0x17#32⟩ := by decide
/-- V-SYS-8: `CVT` = 0x670. -/
theorem test_rdreg_cvt : answerOf (stepOn (decodedWith [] tableB) 0xA200#16) = some ⟨0#4, 0x670#32⟩ := by decide

/-- V-ACC-3 -/
theorem test_acchk_consistent :
    answerOf (stepOn { fullWith [(54, 0x5D#8), (55, 0x23#8), (56, 0xCA#8)] with hasAcchk := true } 0xB000#16) =
      some ⟨0#4, 1#32⟩ := by decide
/-- V-ACC-4, V-ACC-5, V-ACC-6: one complement bit of c3, of c1, of c2 wrong. -/
theorem test_acchk_one_bit :
    complementsAgree 0x5D#8 0x22#8 0xCA#8 = false ∧ complementsAgree 0x5C#8 0x23#8 0xCA#8 = false ∧
      complementsAgree 0x4D#8 0x23#8 0xCA#8 = false := by decide

/-- V-VBV-13 -/
theorem test_vbv_address_pairs : (vbv (bytesOf blockV13)).ok = false := by decide

/-! ### Every statement's hypotheses can be met -/

/-- A full, decoded block whose sixty-four bytes are 0 (P1 after step 67). -/
def zeroSector : State := decodedWith ((List.range 64).map fun k => (k, 0#8)) ⟨0#3, 0#3, 0#3, 0#3⟩

/-- A block halted by `E_RANGE`. -/
def haltedBlock : State := { State.reset with flt := 3#4 }

theorem zeroSector_ok : StateOk zeroSector where
  fillCount := by decide
  decodedIsFull := by decide
  tableOfSector := by decide
  undecodedIsZero := by decide
  checkedIsDecoded := by decide
  noValueIsZero := by decide
  secWf := by decide
  loaded := by decide
  faultCode := by decide

/-- A halted block and a reset: it meets the hypotheses of both clauses. -/
theorem witness_ResetInputRestoresResetValues :
    let s := { haltedBlock with pending := [.reset] }
    s.pending = .reset :: [] ∧ s.flt ≠ 0#4 ∧ ∃ t, step s = .next t ∧ t.flt = 0#4 := ⟨rfl, by decide, _, rfl, rfl⟩

theorem witness_StepRunsTheDecodedCommand :
    let s := { State.reset with pending := [.command 0x20AB#16] }
    s.pending = .command 0x20AB#16 :: [] ∧ s.flt = 0#4 ∧ decode s.hasAcchk 0x20AB#16 = .ok (.push 0xAB#8) := by decide

theorem witness_StepWithoutHostMoveChangesNothing : State.reset.pending = [] := rfl

theorem witness_HaltedBlockAnswersHaltAndChangesNothing :
    let s := { haltedBlock with pending := [.command 0xC000#16] }
    s.pending = .command 0xC000#16 :: [] ∧ s.flt ≠ 0#4 := by decide

/-- Each of the four cases, at the ends of its range, on a running block without the option. -/
theorem witness_IllegalWordRaisesIllcmd :
    State.reset.flt = 0#4 ∧ 0xC ≤ (0xC#4).toNat ∧ 0xC ≤ (0xF#4).toNat ∧
      (0xB#4 = 0xB#4 ∧ State.reset.hasAcchk = false) ∧ (1#8 ≠ 0#8 ∧ 0x0#4 ≠ 0x2#4) ∧ (255#8 ≠ 0#8 ∧ 0xB#4 ≠ 0x2#4) ∧
      (1#4 ≠ 0#4 ∧ 0x2#4 = 0x2#4) ∧ (15#4 ≠ 0#4 ∧ 0xB#4 = 0xB#4) := by decide

theorem witness_DecodeOfEncodeIsTheCommand :
    (Instr.push 0xFF#8).wellFormed false = true ∧ (Instr.rdcv 15#4).wellFormed false = true ∧
      Instr.acchk.wellFormed true = true := by decide

/-- A word of each case, refused. -/
theorem witness_IllegalWordsAreTheFourCases :
    decode false (0xC#4 ++ 0x0#4 ++ 0x00#8) = .error .reservedOpcode ∧
      decode false (0xB#4 ++ 0x0#4 ++ 0x00#8) = .error .acchkAbsent ∧
      decode false (0x9#4 ++ 0x2#4 ++ 0x01#8) = .error .immNotZero ∧
      decode true (0xB#4 ++ 0xF#4 ++ 0x00#8) = .error .aNotZero := by decide

theorem witness_LookupsOverAllPatterns : vcandOf 0b110#3 = true ∧ vcandOf 0b001#3 = true := by decide

theorem witness_RowOfTheOpcodeMapDecidesTheCommand :
    (Instr.rdcv 0#4).wellFormed false = true ∧ (opcodeRow (.rdcv 0#4)).covers 0x4F00#16 = true ∧
      (opcodeRow (.rdcv 15#4)).covers 0x4F00#16 = true := by decide

/-- A running block without the optional command, with this word on its port. -/
def runningOn (w : Word16) : State := { State.reset with pending := [.command w] }

/-- What the clauses on words assume, at a running block. -/
theorem running (w : Word16) : (runningOn w).pending = .command w :: [] ∧ (runningOn w).flt = 0#4 := ⟨rfl, rfl⟩

/-- What the clauses on a halted block assume. -/
theorem halted_on (w : Word16) :
    { haltedBlock with pending := [.command w] }.pending = .command w :: [] ∧
      { haltedBlock with pending := [.command w] }.flt ≠ 0#4 :=
  ⟨rfl, (by decide : haltedBlock.flt ≠ 0#4)⟩

/-- Both ends of the range of reserved words, on a running block, and the word itself on a halted one. -/
theorem witness_NopOnlyAnswers :
    ((runningOn 0x0001#16).flt = 0#4 ∧ 0x0001 ≤ (0x0001#16).toNat ∧ (0x0FFF#16).toNat ≤ 0x0FFF) ∧
      haltedBlock.flt ≠ 0#4 := by decide

theorem witness_ClrForgetsTheSector :
    (zeroSector.flt = 0#4 ∧ ∃ t, exec .clr zeroSector = .next t) ∧
      ((runningOn 0x1001#16).flt = 0#4 ∧ 0x1001 ≤ (0x1001#16).toNat ∧ (0x1FFF#16).toNat ≤ 0x1FFF) ∧
      haltedBlock.flt ≠ 0#4 := ⟨⟨by decide, _, rfl⟩, by decide, by decide⟩

/-- The reset state meets the invariant. -/
theorem reset_ok : StateOk State.reset where
  fillCount := by decide
  decodedIsFull := by decide
  tableOfSector := by intro h; cases h
  undecodedIsZero := by decide
  checkedIsDecoded := by decide
  noValueIsZero := by decide
  secWf := by decide
  loaded := by intro k hk; cases hk
  faultCode := by decide

/-- The fill count at both ends of each clause, a state that meets the invariant, and reserved fields that are not
zero. -/
theorem witness_PushAppendsOneByte :
    (State.reset.wp.toNat < 64 ∧ StateOk State.reset) ∧ { State.reset with wp := 63#7 }.wp.toNat < 64 ∧
      64 ≤ zeroSector.wp.toNat ∧ 64 ≤ { State.reset with wp := 127#7 }.wp.toNat ∧
      ((runningOn (0x2#4 ++ 0x1#4 ++ 0x00#8)).pending = .command (0x2#4 ++ 0x1#4 ++ 0x00#8) :: [] ∧
        (runningOn (0x2#4 ++ 0x1#4 ++ 0x00#8)).flt = 0#4 ∧ 0x1#4 ≠ 0#4 ∧ 0xF#4 ≠ 0#4) :=
  ⟨⟨by decide, reset_ok⟩, by decide, by decide, by decide, rfl, rfl, by decide, by decide⟩

theorem witness_RdregReadsEachRegister :
    ((0#4).toNat ≤ 4 ∧ (1#4).toNat ≤ 4 ∧ (2#4).toNat ≤ 4 ∧ (3#4).toNat ≤ 4 ∧ (4#4).toNat ≤ 4 ∧ 4 < (5#4).toNat ∧
      4 < (15#4).toNat) ∧
      ((runningOn (0xA#4 ++ 0x5#4 ++ 0x01#8)).pending = .command (0xA#4 ++ 0x5#4 ++ 0x01#8) :: [] ∧
        (runningOn (0xA#4 ++ 0x5#4 ++ 0x01#8)).flt = 0#4 ∧ 0x01#8 ≠ 0#8 ∧ 0xFF#8 ≠ 0#8) := by decide

theorem witness_AcdecDecodesTheBufferedTrailer :
    (zeroSector.wp = 64#7 ∧ { zeroSector with wp := 63#7 }.wp ≠ 64#7) ∧
      ((runningOn 0x3001#16).flt = 0#4 ∧ 0x3001 ≤ (0x3001#16).toNat ∧ (0x3FFF#16).toNat ≤ 0x3FFF) := by decide

/-- Both sides of the fill count, the word itself on a block without the option, and the ends of the reserved words on a
block with it. -/
theorem witness_AcchkChecksTheComplements :
    (zeroSector.wp = 64#7 ∧ State.reset.wp ≠ 64#7) ∧
      ((runningOn 0xB000#16).flt = 0#4 ∧ 0xB000 ≤ (0xB000#16).toNat ∧ (0xB000#16).toNat ≤ 0xBFFF ∧
        (runningOn 0xB000#16).hasAcchk = false) ∧
      ({ runningOn 0xB001#16 with hasAcchk := true }.flt = 0#4 ∧ 0xB001#16 ≠ 0xB000#16 ∧ 0xBFFF#16 ≠ 0xB000#16 ∧
        (0xBFFF#16).toNat ≤ 0xBFFF) := by decide

theorem witness_RdcvReadsTheVector :
    (3 < (4#4).toNat ∧ 3 < (15#4).toNat) ∧ ((3#4).toNat ≤ 3 ∧ State.reset.wp ≠ 64#7) ∧
      ((0#4).toNat ≤ 3 ∧ (fullWith []).wp = 64#7 ∧ (fullWith []).cvv = false) ∧
      (zeroSector.wp = 64#7 ∧ zeroSector.cvv = true) := by decide

theorem witness_KeybReadsTheKeyBBit :
    State.reset.wp ≠ 64#7 ∧ ((fullWith []).wp = 64#7 ∧ (fullWith []).cvv = false) ∧
      (StateOk zeroSector ∧ zeroSector.wp = 64#7 ∧ zeroSector.cvv = true) ∧
      ((runningOn 0x5001#16).flt = 0#4 ∧ 0x5001 ≤ (0x5001#16).toNat ∧ (0x5FFF#16).toNat ≤ 0x5FFF) :=
  ⟨by decide, by decide, ⟨zeroSector_ok, by decide, by decide⟩, by decide⟩

/-- A sector and the same with other bits in access byte A and the low nibble of access byte B. -/
theorem witness_ComplementCopiesAreDontCare :
    Instr.acdec ≠ .acchk ∧
      AgreeOutsideComplements zeroSector
        { zeroSector with sec := storeByte (storeByte zeroSector.sec 54 0xFF#8) 55 0x0F#8 } := by
  refine ⟨by decide, rfl, ?_, by decide, rfl⟩
  intro k hk h54 h55
  simp only [memRead1, loadedByte_storeByte, if_neg h54, if_neg h55]

theorem witness_LookupsAnswerForDataBlocks :
    (2 < (3#4).toNat ∧ 2 < (15#4).toNat) ∧ ((2#4).toNat ≤ 2 ∧ State.reset.wp ≠ 64#7) ∧
      ((0#4).toNat ≤ 2 ∧ (fullWith []).wp = 64#7 ∧ (fullWith []).cvv = false) ∧
      ((decodedWith [] tableB).wp = 64#7 ∧ (decodedWith [] tableB).cvv = true ∧
        (decodedWith [] tableB).cv.b0 = 0b000#3 ∧ (decodedWith [] tableB).cv.b1 = 0b110#3 ∧
        (decodedWith [] tableB).cv.b2 = 0b001#3) := by decide

/-- A valid block, and another byte at each end of the ranges of changed bytes. -/
theorem witness_OneChangedByteIsCaughtOutsideTheThirdCopy :
    (vbv (bytesOf blockV7)).ok = true ∧
      (0#8 ≠ bytesOf blockV7 0 ∧ 0#8 ≠ bytesOf blockV7 7 ∧ (7 : Fin 16).val < 8) ∧
      (0#8 ≠ bytesOf blockV7 8 ∧ 0#8 ≠ bytesOf blockV7 11 ∧ 8 ≤ (8 : Fin 16).val ∧ (11 : Fin 16).val < 12) ∧
      (0#8 ≠ bytesOf blockV7 12 ∧ 0#8 ≠ bytesOf blockV7 15 ∧ 12 ≤ (12 : Fin 16).val) := by decide

/-- A plain, a valid and a malformed block, and the index at the ends of its range. -/
theorem witness_VbchkClassifiesTheBlock :
    (2 < (3#4).toNat ∧ (2#4).toNat ≤ 2) ∧ (State.reset.wp ≠ 64#7 ∧ (fullWith []).cvv = false) ∧
      ((decodedWith [] tableB).wp = 64#7 ∧ (decodedWith [] tableB).cvv = true ∧
        (decodedWith [] tableB).cv.b0 = 0b000#3 ∧ vcandOf 0b000#3 = false) ∧
      ((decodedWith [] tableB).cv.b1 = 0b110#3 ∧ vcandOf 0b110#3 = true ∧
        (vbv (fun k => memRead1 (decodedWith (blockCells 1 blockV7) tableB) (16 * (1#4).toNat + k.val))).ok = true) ∧
      ((decodedWith [] tableB).cv.b2 = 0b001#3 ∧ vcandOf 0b001#3 = true ∧
        (vbv (fun k => memRead1 (decodedWith (blockCells 2 blockV15) tableB) (16 * (2#4).toNat + k.val))).ok = false) := by
  decide

theorem witness_SignedReadingIsTwosComplement :
    (0x7FFFFFFF#32).getLsbD 31 = false ∧ (0x80000000#32).getLsbD 31 = true ∧
      signedValue 0xFFFFFFFF#32 = signedValue 0xFFFFFFFF#32 := by decide

/-- A halted block; an illegal word; a decoded command with an error, and one without. -/
theorem witness_FirstErrorInPriorityOrder :
    (haltedBlock.flt ≠ 0#4) ∧
      ((runningOn 0xC000#16).flt = 0#4 ∧ decode (runningOn 0xC000#16).hasAcchk 0xC000#16 = .error .reservedOpcode) ∧
      ((runningOn 0x4400#16).flt = 0#4 ∧ decode (runningOn 0x4400#16).hasAcchk 0x4400#16 = .ok (.rdcv 4#4) ∧
        reportedError (.rdcv 4#4) (runningOn 0x4400#16) = some .range) ∧
      (decode (runningOn 0x0000#16).hasAcchk 0x0000#16 = .ok .nop ∧
        reportedError .nop (runningOn 0x0000#16) = none) := by decide

theorem witness_ErrorsArePrecise :
    let s := { State.reset with pending := [.command 0x4400#16] }
    s.pending = .command 0x4400#16 :: [] ∧ s.flt = 0#4 ∧ ∃ t, step s = .next t ∧ t.flt ≠ 0#4 :=
  ⟨rfl, rfl, _, rfl, by decide⟩

theorem witness_ResponsesHaveTheListedCodes :
    { State.reset with pending := [.command 0x3000#16] }.pending = .command 0x3000#16 :: [] := rfl

theorem witness_OnlyResetLeavesHalt :
    (let s := { haltedBlock with pending := [.reset] }
     s.flt ≠ 0#4 ∧ ∃ t, step s = .next t ∧ t.flt = 0#4) ∧
      (let s := { haltedBlock with pending := [.command 0x1000#16] }
       s.flt ≠ 0#4 ∧ ∃ t, step s = .next t ∧ t.flt = 3#4) :=
  ⟨⟨by decide, _, rfl, rfl⟩, by decide, _, rfl, rfl⟩

theorem witness_EveryStepKeepsStateOk :
    StateOk zeroSector ∧ ∃ t, step zeroSector = .next t := ⟨zeroSector_ok, _, rfl⟩

theorem witness_ReachableStatesKeepTheSixClauses :
    ∃ s, runSteps 2 (startOfRun true [.command 0x20AB#16, .command 0x3000#16]) = .next s := ⟨_, rfl⟩

theorem witness_FullBufferIsImmutable :
    let s := { zeroSector with pending := [.command 0x2001#16] }
    s.pending = .command 0x2001#16 :: [] ∧ s.wp = 64#7 ∧ s.flt = 0#4 ∧ (0x2001#16).extractLsb' 8 8 = 0x20#8 := by decide

/-- For each clause, a command that writes the element. -/
theorem witness_OnlyTheNamedCommandsWriteEachElement :
    (∃ t, exec (.push 1#8) State.reset = .next t ∧ t.sec ≠ State.reset.sec ∧ t.wp ≠ State.reset.wp) ∧
      (∃ t, exec .acdec (fullWith [(55, 0#8), (56, 0#8)]) = .next t ∧ t.cvv ≠ false) ∧
      (∃ t, exec (.vbchk 0#4) (decodedWith [] tableB) = .next t ∧ t.vst ≠ .unchecked) ∧
      (∃ t, exec (.rdcv 4#4) State.reset = .next t ∧ t.flt ≠ State.reset.flt) :=
  ⟨⟨_, rfl, by decide, by decide⟩, ⟨_, rfl, by decide⟩, ⟨_, rfl, by decide⟩, ⟨_, rfl, by decide⟩⟩

theorem witness_StepWritesAtMostTheByteAtWp :
    let s := { State.reset with pending := [.command 0x20AB#16] }
    Memory.wf s.sec ∧ (∃ t, step s = .next t) ∧ (∀ rest, s.pending ≠ .reset :: rest) ∧ 1 ≠ pushOffset s :=
  ⟨by decide, ⟨_, rfl⟩, (by intro rest h; cases h), by decide⟩

/-- Two half-filled buffers that agree below the fill count and differ above it. -/
theorem witness_UnloadedBytesDoNotMatterToAStep :
    AgreeOnLoaded { State.reset with sec := [(0, 1#8), (1, 2#8)], wp := 1#7 }
      { State.reset with sec := [(0, 1#8)], wp := 1#7 } := by
  refine ⟨by decide, ?_, rfl⟩
  intro k hk
  have : k = 0 := by simpa using hk
  subst this
  rfl

theorem witness_ReadingCommandsAreIdempotent :
    (Instr.vbchk 2#4 = .acdec ∨ Instr.vbchk 2#4 = .acchk ∨ ∃ j, Instr.vbchk 2#4 = .vbchk j) := .inr (.inr ⟨_, rfl⟩)

theorem witness_LoadSectorFillsTheBuffer :
    let bytes := List.replicate 64 0xA5#8
    let s := { zeroSector with pending := movesOf (loadSector bytes) ++ [HostMove.reset] }
    bytes.length = 64 ∧ s.flt = 0#4 ∧ s.pending = movesOf (loadSector bytes) ++ [HostMove.reset] := ⟨rfl, rfl, rfl⟩

theorem witness_DecodeSectorGivesTheTableOfItsTrailer :
    let bytes := List.replicate 64 0xA5#8
    let s := { zeroSector with pending := movesOf (decodeSector bytes) ++ [] }
    bytes.length = 64 ∧ bytes[55]? = some 0xA5#8 ∧ bytes[56]? = some 0xA5#8 ∧ s.flt = 0#4 ∧
      s.pending = movesOf (decodeSector bytes) ++ [] := ⟨rfl, rfl, rfl, rfl, rfl⟩

/-- A running block that has answered `OK` once, and a halted one that has answered an error. -/
theorem witness_EveryWordKeepsTheReadingOfTheLatch :
    (let s := { State.reset with pending := [.command 0x4400#16], received := [⟨0x0#4, 0#32⟩] }
     s.pending = .command 0x4400#16 :: [] ∧ (s.flt = 0#4 ↔ ∀ r ∈ s.received, r.code = 0x0#4) ∧ ∃ t, step s = .next t) ∧
      (let s := { haltedBlock with pending := [.command 0x0000#16], received := [⟨0x3#4, 0x4400#32⟩] }
       s.pending = .command 0x0000#16 :: [] ∧ (s.flt = 0#4 ↔ ∀ r ∈ s.received, r.code = 0x0#4) ∧ ∃ t, step s = .next t) :=
  ⟨⟨rfl, by decide, _, rfl⟩, rfl, by decide, _, rfl⟩

theorem witness_DumpSectorsArePositional :
    (List.replicate 1024 (0#8 : Byte)).length = 1024 ∧ (15 : Nat) ≤ 15 ∧ 15 < 16 ∧ ([] : List Byte).length ≠ 1024 :=
  ⟨List.length_replicate, by decide, by decide, by decide⟩

end Sys2Proof.Machine.Tests
end

/-! PROOFS. The step's frame (00_scope.md R4, R9): which of its outcomes a move of the host gets, that a command answers
once, and that no meaning looks at the moves still waiting. -/

namespace Sys2Proof.Machine

/-! ### One step, by the move taken -/

/-- The reset input is applied to the state with the move taken off (R120). -/
theorem step_of_reset {s : State} {rest : List HostMove} (hp : s.pending = .reset :: rest) :
    step s = .next (applyReset { s with pending := rest }) := by
  obtain ⟨hnil, -⟩ | ⟨rest', hp', h⟩ | ⟨w, rest', hp', -⟩ := step_cases s
  · simp [hp] at hnil
  · obtain rfl : rest = rest' := by simpa [hp] using hp'
    exact h
  · simp [hp] at hp'

/-- Everything a step on a word can be: the three outcomes of the frame of R9. -/
theorem step_command_cases {s : State} {w : Word16} {rest : List HostMove} (hp : s.pending = .command w :: rest) :
    (s.flt ≠ 0#4 ∧ step s = .next (answerHalted { s with pending := rest })) ∨
    (s.flt = 0#4 ∧ ∃ why, decode s.hasAcchk w = .error why ∧
      step s = .next (errorAnswer 0x2#4 w { s with pending := rest })) ∨
    (s.flt = 0#4 ∧ ∃ i, decode s.hasAcchk w = .ok i ∧ step s = exec i { s with pending := rest }) := by
  obtain ⟨hnil, -⟩ | ⟨rest', hp', -⟩ | ⟨w', rest', hp', h⟩ := step_cases s
  · simp [hp] at hnil
  · simp [hp] at hp'
  · obtain ⟨rfl, rfl⟩ : w = w' ∧ rest = rest' := by simpa [hp] using hp'
    exact h

/-- A halted block answers a word without looking at it (R105). -/
theorem step_of_halted {s : State} {w : Word16} {rest : List HostMove} (hp : s.pending = .command w :: rest)
    (hf : s.flt ≠ 0#4) : step s = .next (answerHalted { s with pending := rest }) := by
  obtain ⟨-, h⟩ | ⟨hf', -⟩ | ⟨hf', -⟩ := step_command_cases hp
  · exact h
  · exact absurd hf' hf
  · exact absurd hf' hf

/-- A running block answers an illegal word with `E_ILLCMD` (R103). -/
theorem step_of_illegal_word {s : State} {w : Word16} {rest : List HostMove} {why : IllegalWord}
    (hp : s.pending = .command w :: rest) (hf : s.flt = 0#4) (hd : decode s.hasAcchk w = .error why) :
    step s = .next (errorAnswer 0x2#4 w { s with pending := rest }) := by
  obtain ⟨hf', -⟩ | ⟨-, -, -, h⟩ | ⟨-, i, hd', -⟩ := step_command_cases hp
  · exact absurd hf hf'
  · exact h
  · simp [hd] at hd'

/-- A running block runs the command of a legal word (R9). -/
theorem step_of_legal_word {s : State} {w : Word16} {rest : List HostMove} {i : Instr}
    (hp : s.pending = .command w :: rest) (hf : s.flt = 0#4) (hd : decode s.hasAcchk w = .ok i) :
    step s = exec i { s with pending := rest } := by
  obtain ⟨hf', -⟩ | ⟨-, why, hd', -⟩ | ⟨-, i', hd', h⟩ := step_command_cases hp
  · exact absurd hf hf'
  · simp [hd] at hd'
  · obtain rfl : i = i' := by simpa [hd] using hd'
    exact h

/-! ### A command answers once and keeps the parameter -/

/-- No effect changes the parameter (10_state.md R27). -/
@[simp] theorem effectOf_hasAcchk (i : Instr) (s : State) : (effectOf i s).hasAcchk = s.hasAcchk := by
  cases i with
  | vbchk j =>
    simp only [effectOf]
    split
    · split <;> rfl
    · rfl
  | rdreg r =>
    simp only [effectOf]
    split <;> rfl
  | _ => rfl

/-- The legal register numbers have a register (10_state.md R22). -/
theorem reg_ne_none_of_le {r : Nibble} (h : r.toNat ≤ 4) : Reg.ofNumber r ≠ none := by
  revert r; decide

/-- An admitted command's effect answers once (R4). -/
theorem effectOf_received {i : Instr} {s : State} (h : Admitted i s) :
    ∃ r, (effectOf i s).received = r :: s.received := by
  cases i with
  | vbchk j =>
    simp only [effectOf]
    split
    · split <;> exact ⟨_, rfl⟩
    · exact ⟨_, rfl⟩
  | rdreg r =>
    simp only [effectOf]
    split
    next => exact ⟨_, rfl⟩
    next hr => exact absurd hr (reg_ne_none_of_le (of_decide_eq_true h.operand))
  | _ => exact ⟨_, rfl⟩

/-- Whether it has its effect or raises an error, a command ends in a state with one response more (R4). -/
theorem exec_answers_once (i : Instr) (s : State) :
    ∃ t, exec i s = .next t ∧ t.hasAcchk = s.hasAcchk ∧ ∃ r, t.received = r :: s.received := by
  obtain ⟨e, h⟩ | ⟨hadm, h⟩ := exec_cases i s
  · exact ⟨_, h, rfl, _, rfl⟩
  · exact ⟨_, h, effectOf_hasAcchk i s, effectOf_received hadm⟩

/-! ### No meaning looks at the moves still waiting -/

/-- The same outcome, with `rest` as the moves left. -/
def leavingMoves (rest : List HostMove) : Result → Result
  | .next t => .next { t with pending := rest }
  | .fault r => .fault r
  | .refused r => .refused r

@[simp] theorem leavingMoves_next (rest : List HostMove) (t : State) :
    leavingMoves rest (.next t) = .next { t with pending := rest } := rfl

/-- A check that does not read the moves left passes them on. -/
theorem demand_leavingMoves {ok : Bool} {e : ErrorCode} {i : Instr} {s : State} {rest : List HostMove}
    {go go' : Result} (h : go' = leavingMoves rest go) :
    demand ok e i { s with pending := rest } go' = leavingMoves rest (demand ok e i s go) := by
  cases ok with
  | true => exact h
  | false => rfl

/-- A lookup does not read the moves left. -/
theorem lookup_leavingMoves (i : Instr) (j : Nibble) (answer : CondVec → Word32) (s : State) (rest : List HostMove) :
    lookup i j answer { s with pending := rest } = leavingMoves rest (lookup i j answer s) :=
  demand_leavingMoves (demand_leavingMoves (demand_leavingMoves rfl))

/-- A command does the same whatever moves are left, and leaves them (R4, R38). -/
theorem exec_leavingMoves (i : Instr) (s : State) (rest : List HostMove) :
    exec i { s with pending := rest } = leavingMoves rest (exec i s) := by
  cases i with
  | nop => rfl
  | clr => rfl
  | push imm => exact demand_leavingMoves rfl
  | acdec => exact demand_leavingMoves rfl
  | rdcv j => exact demand_leavingMoves (demand_leavingMoves (demand_leavingMoves rfl))
  | keyb => exact demand_leavingMoves (demand_leavingMoves rfl)
  | role j => exact lookup_leavingMoves (.role j) j (fun c => zext32 (roleOf c).code) s rest
  | dflg j => exact lookup_leavingMoves (.dflg j) j (fun c => zext32 (BitVec.ofBool (dflagOf c))) s rest
  | vcand j => exact lookup_leavingMoves (.vcand j) j (fun c => zext32 (BitVec.ofBool (vcandOf c))) s rest
  | vbchk j =>
    refine demand_leavingMoves (demand_leavingMoves (demand_leavingMoves ?_))
    simp only [apply_ite (leavingMoves rest)]
    rfl
  | rdreg r =>
    simp only [exec, execRdreg]
    cases Reg.ofNumber r <;> rfl
  | acchk => exact demand_leavingMoves rfl

/-- A word gets one response, and the step that answers it does not depend on later moves (R4, R38). -/
theorem step_command_answers_once (s : State) (w : Word16) :
    ∃ t : State,
      (∀ rest, step { s with pending := .command w :: rest } = .next { t with pending := rest }) ∧
      t.hasAcchk = s.hasAcchk ∧ ∃ r, t.received = r :: s.received := by
  by_cases hf : s.flt = 0#4
  · cases hd : decode s.hasAcchk w with
    | error why => exact ⟨errorAnswer 0x2#4 w s, fun _ => step_of_illegal_word rfl hf hd, rfl, _, rfl⟩
    | ok i =>
      obtain ⟨t, ht, hpar, hresp⟩ := exec_answers_once i s
      refine ⟨t, fun rest => ?_, hpar, hresp⟩
      calc step { s with pending := .command w :: rest }
          = exec i { s with pending := rest } := step_of_legal_word rfl hf hd
        _ = leavingMoves rest (exec i s) := exec_leavingMoves i s rest
        _ = .next { t with pending := rest } := by rw [ht, leavingMoves_next]
  · exact ⟨answerHalted s, fun _ => step_of_halted rfl hf, rfl, _, rfl⟩

/-! ### The obligations -/

/-- Settles O8: the reset input is applied whatever follows it, and a word is answered once by one of the three
outcomes of the frame. -/
theorem stepTakesOneMoveAndIgnoresLaterOnes : Obligations.StepTakesOneMoveAndIgnoresLaterOnes := by
  intro s m
  cases m with
  | reset => exact ⟨applyReset s, fun _ => step_of_reset rfl, rfl, .inl ⟨rfl, rfl⟩⟩
  | command w =>
    obtain ⟨t, hstep, hpar, r, hr⟩ := step_command_answers_once s w
    exact ⟨t, hstep, hpar, .inr ⟨w, r, rfl, hr⟩⟩

/-- Settles O4: it is the third outcome of the frame. -/
theorem stepRunsTheDecodedCommand : Obligations.StepRunsTheDecodedCommand :=
  fun _ _ _ _ hp hf hd => step_of_legal_word hp hf hd

end Sys2Proof.Machine

/-! PROOFS. The state (10_state.md): a command as the checks of R107 in order and then its effect, the ways an effect
changes the state, the invariant of R23, the full buffer (R24), and the bytes not loaded (R25). -/

namespace Sys2Proof

/-! ### The decoder inverted -/

/-- A word is put together again from its three fields (R45). -/
theorem commandWord_of_fields {w : Word16} {op a : Nibble} {imm : Byte} (hop : (opField w).toNat = op.toNat)
    (ha : aField w = a) (himm : immField w = imm) : commandWord op a imm = w := by
  subst ha himm
  rw [← BitVec.eq_of_toNat_eq hop]
  exact fields_of_word w

theorem bareCommand_eq_ok {w : Word16} {i i' : Instr} (h : bareCommand w i = .ok i') :
    i = i' ∧ aField w = 0#4 ∧ immField w = 0#8 := by
  simp only [bareCommand] at h
  split at h
  · cases h
  · split at h
    · cases h
    · cases h
      exact ⟨rfl, not_not.1 ‹_›, not_not.1 ‹_›⟩

theorem indexedCommand_eq_ok {w : Word16} {command : Nibble → Instr} {i : Instr}
    (h : indexedCommand w command = .ok i) : command (aField w) = i ∧ immField w = 0#8 := by
  simp only [indexedCommand] at h
  split at h
  · cases h
  · cases h
    exact ⟨rfl, not_not.1 ‹_›⟩

theorem pushCommand_eq_ok {w : Word16} {i : Instr} (h : pushCommand w = .ok i) :
    .push (immField w) = i ∧ aField w = 0#4 := by
  simp only [pushCommand] at h
  split at h
  · cases h
  · cases h
    exact ⟨rfl, not_not.1 ‹_›⟩

/-- A legal word is the word of the command it decodes to (R53). -/
theorem encode_of_decode {hasAcchk : Bool} {w : Word16} {i : Instr} (h : decode hasAcchk w = .ok i) :
    encode i = w := by
  simp only [decode] at h
  split at h
  case h_3 hop =>
    obtain ⟨rfl, ha⟩ := pushCommand_eq_ok h
    exact commandWord_of_fields hop ha rfl
  case h_12 hop =>
    split at h
    · obtain ⟨rfl, ha, himm⟩ := bareCommand_eq_ok h
      exact commandWord_of_fields hop ha himm
    · cases h
  case h_13 => cases h
  case h_1 hop | h_2 hop | h_4 hop | h_6 hop =>
    obtain ⟨rfl, ha, himm⟩ := bareCommand_eq_ok h
    exact commandWord_of_fields hop ha himm
  case h_5 hop | h_7 hop | h_8 hop | h_9 hop | h_10 hop | h_11 hop =>
    obtain ⟨rfl, himm⟩ := indexedCommand_eq_ok h
    exact commandWord_of_fields hop rfl himm

/-- A word with `op` 0x2 and `a` 0 is the `PUSH` of its low byte (R46, R47). -/
theorem decode_of_push_word {w : Word16} (hasAcchk : Bool) (h : w.extractLsb' 8 8 = 0x20#8) :
    decode hasAcchk w = .ok (.push (immField w)) := by
  have hn := congrArg BitVec.toNat h
  rw [BitVec.extractLsb'_toNat, Nat.shiftRight_eq_div_pow] at hn
  have hop : (opField w).toNat = 2 := by
    rw [opField, BitVec.extractLsb'_toNat, Nat.shiftRight_eq_div_pow]
    simp only [BitVec.toNat_ofNat] at hn
    omega
  have ha : aField w = 0#4 := by
    apply BitVec.eq_of_toNat_eq
    rw [aField, BitVec.extractLsb'_toNat, Nat.shiftRight_eq_div_pow]
    simp only [BitVec.toNat_ofNat] at hn ⊢
    omega
  simp [decode, hop, pushCommand, ha]

end Sys2Proof

namespace Sys2Proof.Machine

/-! ### A command is its checks and then its effect -/

/-- Every command is the four checks in the order of R107, those of them it makes, and then its effect. -/
theorem exec_eq_checks (i : Instr) (s : State) :
    exec i s =
      demand (operandLegal i) .range i s
        (demand (!needsFull i || full s) .size i s
          (demand (!needsDecoded i || s.cvv) .nodec i s
            (demand (!needsRoom i || decide (s.wp.toNat < 64)) .ovf i s
              (.next (effectOf i s))))) := by
  cases i with
  | vbchk j =>
    simp only [effectOf, apply_ite (Host.Outcome.next (φ := Fault) (ρ := Refusal))]
    rfl
  | rdreg r =>
    cases hr : Reg.ofNumber r with
    | some reg =>
      have hlegal : operandLegal (.rdreg r) = true := decide_eq_true (reg_of_legal_number (by simp [hr]))
      simp only [exec, execRdreg, effectOf, hr, hlegal]
      rfl
    | none =>
      have hillegal : operandLegal (.rdreg r) = false :=
        decide_eq_false fun hle => reg_ne_none_of_le hle hr
      simp only [exec, execRdreg, hr, hillegal]
      rfl
  | _ => rfl

/-- The state a command ends in: the error that the tables of R46 and R100 give for it, or its effect. -/
def outcomeOf (i : Instr) (s : State) : State :=
  match reportedError i s with
  | some e => errorAnswer e.bits (encode i) s
  | none => effectOf i s

theorem outcomeOf_of_error {i : Instr} {s : State} {e : ErrorCode} (h : reportedError i s = some e) :
    outcomeOf i s = errorAnswer e.bits (encode i) s := by
  simp only [outcomeOf, h]

theorem outcomeOf_of_no_error {i : Instr} {s : State} (h : reportedError i s = none) :
    outcomeOf i s = effectOf i s := by
  simp only [outcomeOf, h]

/-- A check, as the error it raises when it fails. -/
theorem demand_eq_ite (ok : Bool) (e : ErrorCode) (i : Instr) (s : State) (go : Result) :
    demand ok e i s go = if ok = false then .next (errorAnswer e.bits (encode i) s) else go := by
  cases ok <;> rfl

theorem size_check_fails_iff (i : Instr) (s : State) :
    (!needsFull i || full s) = false ↔ needsFull i = true ∧ s.wp ≠ 64#7 := by simp

theorem nodec_check_fails_iff (i : Instr) (s : State) :
    (!needsDecoded i || s.cvv) = false ↔ needsDecoded i = true ∧ s.cvv = false := by simp

theorem ovf_check_fails_iff (i : Instr) (s : State) :
    (!needsRoom i || decide (s.wp.toNat < 64)) = false ↔ needsRoom i = true ∧ 64 ≤ s.wp.toNat := by simp

/-- A command has exactly one outcome, and `reportedError` says which (R107). -/
theorem exec_eq_outcomeOf (i : Instr) (s : State) : exec i s = .next (outcomeOf i s) := by
  rw [exec_eq_checks]
  simp only [demand_eq_ite, size_check_fails_iff, nodec_check_fails_iff, ovf_check_fails_iff, outcomeOf, reportedError]
  split_ifs <;> rfl

/-- A command for which no error is reported is admitted. -/
theorem admitted_of_no_error {i : Instr} {s : State} (h : reportedError i s = none) : Admitted i s := by
  simp only [reportedError] at h
  split_ifs at h with hop hfull hdec hroom
  exact {
    operand := by simpa using hop
    full := by simpa using hfull
    decoded := by simpa using hdec
    room := by simpa using hroom }

/-- An error leaves everything but the latch and the host's list; otherwise the command is admitted and has its
effect (R101, R107). -/
theorem outcomeOf_cases (i : Instr) (s : State) :
    (∃ e, reportedError i s = some e ∧ outcomeOf i s = errorAnswer e.bits (encode i) s) ∨
      (Admitted i s ∧ outcomeOf i s = effectOf i s) := by
  cases h : reportedError i s with
  | some e => exact .inl ⟨e, rfl, outcomeOf_of_error h⟩
  | none => exact .inr ⟨admitted_of_no_error h, outcomeOf_of_no_error h⟩

/-- With no move of the host waiting, a step changes nothing (R124). -/
theorem step_of_no_move {s : State} (hp : s.pending = []) : step s = .next s := by
  obtain ⟨-, h⟩ | ⟨rest, hp', -⟩ | ⟨w, rest, hp', -⟩ := step_cases s
  · exact h
  · simp [hp] at hp'
  · simp [hp] at hp'

/-! ### The ways an effect changes the state -/

/-- The state after a command that raised no error, by the elements it wrote (10_state.md R11 to R17). -/
inductive Written (s : State) : Instr → State → Prop where
  /-- only an answer -/
  | nothing (i : Instr) (d : Word32) : Written s i (okAnswer d s)
  /-- `CLR` -/
  | cleared : Written s .clr (okAnswer 0#32 (clearResults s))
  /-- `PUSH`, with room for the byte -/
  | pushed (imm : Byte) (room : s.wp.toNat < 64) :
      Written s (.push imm) (okAnswer 0#32 { memWrite1 s.wp.toNat imm s with wp := s.wp + 1#7 })
  /-- `ACDEC`, on a full buffer -/
  | decoded (isFull : s.wp = 64#7) :
      Written s .acdec (okAnswer 0#32
        { s with cv := acd (memRead1 s 55) (memRead1 s 56),
                 kbu := kbuOf (acd (memRead1 s 55) (memRead1 s 56)).b3, cvv := true })
  /-- `VBCHK`, on a decoded table: an outcome, and a value with the outcome `VALUE` only -/
  | checked (j : Nibble) (status : CheckStatus) (value : Word32) (address : Byte) (isDecoded : s.cvv = true)
      (noValue : status ≠ .value → value = 0#32 ∧ address = 0#8) :
      Written s (.vbchk j) (recordCheck status value address s)

/-- An admitted command writes what its effect lists. -/
theorem written_of_admitted {i : Instr} {s : State} (h : Admitted i s) : Written s i (effectOf i s) := by
  cases i with
  | clr => exact .cleared
  | push imm => exact .pushed imm (h.room rfl)
  | acdec => exact .decoded (h.full rfl)
  | vbchk j =>
    simp only [effectOf]
    split
    · split
      · exact .checked j .value _ _ (h.decoded rfl) nofun
      · exact .checked j .malformed _ _ (h.decoded rfl) fun _ => ⟨rfl, rfl⟩
    · exact .checked j .plain _ _ (h.decoded rfl) fun _ => ⟨rfl, rfl⟩
  | rdreg r =>
    simp only [effectOf]
    split
    next => exact .nothing _ _
    next hr => exact absurd hr (reg_ne_none_of_le (of_decide_eq_true h.operand))
  | _ => exact .nothing _ _

/-! ### The invariant of R23 -/

section

variable {s : State}

/-- The invariant does not speak of the parameter and the ports (R27). -/
theorem StateOk.withPorts (h : StateOk s) (hasAcchk : Bool) (pending : List HostMove) (received : List Response) :
    StateOk { s with hasAcchk := hasAcchk, pending := pending, received := received } :=
  { h with }

theorem okAnswer_ok (h : StateOk s) (d : Word32) : StateOk (okAnswer d s) := h.withPorts _ _ _

theorem errorAnswer_ok (h : StateOk s) {code : Nibble} (hcode : code.toNat ≤ 5) (w : Word16) :
    StateOk (errorAnswer code w s) :=
  { h with faultCode := hcode }

/-- With no byte counted and no result left, only the buffer's form and the latch have to be right (R91). -/
theorem clearResults_ok (secWf : Memory.wf s.sec) (faultCode : s.flt.toNat ≤ 5) : StateOk (clearResults s) where
  fillCount := Nat.zero_le _
  decodedIsFull := nofun
  tableOfSector := nofun
  undecodedIsZero _ := ⟨rfl, rfl⟩
  checkedIsDecoded h := absurd rfl h
  noValueIsZero _ := ⟨rfl, rfl⟩
  secWf := secWf
  loaded _ hk := absurd hk (Nat.not_lt_zero _)
  faultCode := faultCode

/-- The start of a run is a cleared state (R26). -/
theorem startOfRun_ok (hasAcchk : Bool) (moves : List HostMove) : StateOk (startOfRun hasAcchk moves) :=
  clearResults_ok (s := startOfRun hasAcchk moves) reset_wf (Nat.zero_le _)

/-- The reset input leaves the start of a run, but for the host's list (R120). -/
theorem applyReset_ok (s : State) : StateOk (applyReset s) :=
  (startOfRun_ok s.hasAcchk s.pending).withPorts _ _ _

/-- Below 64 the seven bits of `WP` do not wrap (R12). -/
theorem wp_succ_toNat (h : s.wp.toNat < 64) : (s.wp + 1#7).toNat = s.wp.toNat + 1 := by
  bv_omega

/-- The byte at `WP` is loaded and counted. A buffer with room is not decoded, so no result can be out of date (R92). -/
theorem push_ok (h : StateOk s) (imm : Byte) (room : s.wp.toNat < 64) :
    StateOk { memWrite1 s.wp.toNat imm s with wp := s.wp + 1#7 } := by
  have hcvv : s.cvv ≠ true := fun hd => absurd (h.decodedIsFull hd) (Nat.ne_of_lt room)
  exact {
    fillCount := (wp_succ_toNat room).le.trans room
    decodedIsFull := fun hd => absurd hd hcvv
    tableOfSector := fun hd => absurd hd hcvv
    undecodedIsZero := h.undecodedIsZero
    checkedIsDecoded := h.checkedIsDecoded
    noValueIsZero := h.noValueIsZero
    secWf := storeByte_wf imm room h.secWf
    loaded := fun k hk => by
      have hk : k < s.wp.toNat + 1 := (wp_succ_toNat room) ▸ hk
      simp only [memWrite1_sec, loadedByte_storeByte]
      split
      · rfl
      · exact h.loaded k (by omega)
    faultCode := h.faultCode }

/-- The table and the Key B bit are those of the full buffer, as clause (c) has them (R62). -/
theorem acdec_ok (h : StateOk s) (isFull : s.wp = 64#7) :
    StateOk { s with cv := acd (memRead1 s 55) (memRead1 s 56),
                     kbu := kbuOf (acd (memRead1 s 55) (memRead1 s 56)).b3, cvv := true } :=
  { h with
    decodedIsFull := fun _ => congrArg BitVec.toNat isFull
    tableOfSector := fun _ => ⟨rfl, rfl⟩
    undecodedIsZero := nofun
    checkedIsDecoded := fun _ => rfl }

theorem recordCheck_ok (h : StateOk s) {status : CheckStatus} {value : Word32} {address : Byte}
    (isDecoded : s.cvv = true) (noValue : status ≠ .value → value = 0#32 ∧ address = 0#8) :
    StateOk (recordCheck status value address s) :=
  { h with
    checkedIsDecoded := fun _ => isDecoded
    noValueIsZero := noValue }

/-- Every way of writing keeps the invariant. -/
theorem written_ok {i : Instr} {t : State} (h : StateOk s) (hw : Written s i t) : StateOk t := by
  cases hw with
  | nothing _ d => exact okAnswer_ok h d
  | cleared => exact okAnswer_ok (clearResults_ok h.secWf h.faultCode) _
  | pushed imm room => exact okAnswer_ok (push_ok h imm room) _
  | decoded isFull => exact okAnswer_ok (acdec_ok h isFull) _
  | checked j status value address isDecoded noValue => exact recordCheck_ok h isDecoded noValue

/-- The five codes that latch are 1 to 5 (R100). -/
theorem errorCode_bits_le (e : ErrorCode) : e.bits.toNat ≤ 5 := by
  cases e <;> decide

theorem outcomeOf_ok (h : StateOk s) (i : Instr) : StateOk (outcomeOf i s) := by
  obtain ⟨e, -, ho⟩ | ⟨hadm, ho⟩ := outcomeOf_cases i s <;> rw [ho]
  · exact errorAnswer_ok h (errorCode_bits_le e) _
  · exact written_ok h (written_of_admitted hadm)

/-- A step answers a next state, and it meets the invariant if the state before does (R23). -/
theorem step_ok (h : StateOk s) : ∃ t, step s = .next t ∧ StateOk t := by
  obtain ⟨-, hs⟩ | ⟨rest, -, hs⟩ | ⟨w, rest, -, ⟨-, hs⟩ | ⟨-, why, -, hs⟩ | ⟨-, i, -, hs⟩⟩ := step_cases s
  · exact ⟨_, hs, h⟩
  · exact ⟨_, hs, applyReset_ok _⟩
  · exact ⟨_, hs, h.withPorts _ _ _⟩
  · exact ⟨_, hs, errorAnswer_ok (h.withPorts _ rest _) (by decide) w⟩
  · exact ⟨_, hs.trans (exec_eq_outcomeOf i _), outcomeOf_ok (h.withPorts _ rest _) i⟩

end

/-! ### The full buffer (R24) -/

/-- While the buffer is full no effect writes to it, and only `CLR` empties it (R36, R91, R92). -/
theorem written_of_full {i : Instr} {s t : State} (hw : Written s i t) (isFull : s.wp = 64#7) :
    t.sec = s.sec ∧ (t.wp = 64#7 ∨ i = .clr ∧ t.wp = 0#7 ∧ t.cvv = false) := by
  cases hw with
  | nothing _ d => exact ⟨rfl, .inl isFull⟩
  | cleared => exact ⟨rfl, .inr ⟨rfl, rfl, rfl⟩⟩
  | pushed imm room => simp [isFull] at room
  | decoded _ => exact ⟨rfl, .inl isFull⟩
  | checked => exact ⟨rfl, .inl isFull⟩

theorem outcomeOf_of_full (i : Instr) {s : State} (isFull : s.wp = 64#7) :
    (outcomeOf i s).sec = s.sec ∧
      ((outcomeOf i s).wp = 64#7 ∨ i = .clr ∧ (outcomeOf i s).wp = 0#7 ∧ (outcomeOf i s).cvv = false) := by
  obtain ⟨e, -, ho⟩ | ⟨hadm, ho⟩ := outcomeOf_cases i s <;> rw [ho]
  · exact ⟨rfl, .inl isFull⟩
  · exact written_of_full (written_of_admitted hadm) isFull

/-- `PUSH` to a full buffer is refused with `E_OVF` (R92). -/
theorem outcomeOf_push_of_full (imm : Byte) {s : State} (isFull : s.wp = 64#7) :
    outcomeOf (.push imm) s = errorAnswer 0x5#4 (encode (.push imm)) s :=
  outcomeOf_of_error (e := .ovf) (by simp [reportedError, operandLegal, needsFull, needsDecoded, needsRoom, isFull])

/-! ### The bytes not loaded (R25) -/

/-- One of two agreeing states is the other with another buffer. -/
theorem AgreeOnLoaded.eq_withSec {s t : State} (h : AgreeOnLoaded s t) : t = { s with sec := t.sec } := by
  rw [← h.rest]

/-- Writing any elements but the buffer, the same in both states, keeps the agreement, if no more bytes are counted. -/
theorem AgreeOnLoaded.withSec {s t u : State} (h : AgreeOnLoaded s t) (hwp : u.wp.toNat ≤ s.wp.toNat)
    (hsec : u.sec = s.sec) :
    AgreeOnLoaded u { u with sec := t.sec } where
  fill := hwp.trans h.fill
  bytes k hk := (memRead1_congr hsec k).trans (h.bytes k (hk.trans_le hwp))
  rest := rfl

/-- `PUSH` makes the two bytes at `WP` the same, and counts them (R92). -/
theorem push_agree {s t : State} (h : AgreeOnLoaded s t) (imm : Byte) (room : s.wp.toNat < 64) :
    AgreeOnLoaded (effectOf (.push imm) s) (effectOf (.push imm) t) where
  fill := (wp_succ_toNat room).le.trans room
  bytes k hk := by
    have hk : k < s.wp.toNat + 1 := (wp_succ_toNat room) ▸ hk
    have hwp : t.wp = s.wp := by rw [h.eq_withSec]
    have hread : ∀ u : State, memRead1 (effectOf (.push imm) u) k = if k = u.wp.toNat then imm else memRead1 u k :=
      fun u => memRead1_memWrite1 u u.wp.toNat k imm
    rw [hread, hread, hwp]
    split
    · rfl
    · exact h.bytes k (by omega)
  rest := by
    rw [h.eq_withSec]
    rfl

/-- An admitted command reads loaded bytes only: those it reads lie in a full buffer (R62, R66, R82). -/
theorem effectOf_agree {i : Instr} {s t : State} (h : AgreeOnLoaded s t) (hadm : Admitted i s) :
    AgreeOnLoaded (effectOf i s) (effectOf i t) := by
  obtain ⟨m, rfl⟩ : ∃ m, t = { s with sec := m } := ⟨_, h.eq_withSec⟩
  have hread : needsFull i = true → ∀ k < 64, memRead1 { s with sec := m } k = memRead1 s k := fun hfull k hk =>
    (h.bytes k (by rw [hadm.full hfull]; exact hk)).symm
  cases i with
  | push imm => exact push_agree h imm (hadm.room rfl)
  | clr => exact h.withSec (Nat.zero_le _) rfl
  | acdec =>
    simp only [effectOf, hread rfl 55 (by decide), hread rfl 56 (by decide)]
    exact h.withSec le_rfl rfl
  | acchk =>
    simp only [effectOf, hread rfl 54 (by decide), hread rfl 55 (by decide), hread rfl 56 (by decide)]
    exact h.withSec le_rfl rfl
  | vbchk j =>
    have hj : j.toNat ≤ 2 := of_decide_eq_true hadm.operand
    have hblock : blockBytes { s with sec := m } j = blockBytes s j :=
      funext fun k => hread rfl _ (by simp only [blockOffset, Config.blockBytes]; omega)
    simp only [effectOf, hblock]
    split
    · split <;> exact h.withSec le_rfl rfl
    · exact h.withSec le_rfl rfl
  | rdreg r =>
    cases hr : Reg.ofNumber r with
    | some reg =>
      simp only [effectOf, hr]
      exact h.withSec le_rfl rfl
    | none => simpa only [effectOf, hr] using h
  | _ => exact h.withSec le_rfl rfl

/-- Agreeing states report the same error and have agreeing effects. -/
theorem outcomeOf_agree (i : Instr) {s t : State} (h : AgreeOnLoaded s t) :
    AgreeOnLoaded (outcomeOf i s) (outcomeOf i t) := by
  have herror : reportedError i t = reportedError i s := by
    rw [h.eq_withSec]
    rfl
  cases hs : reportedError i s with
  | some e =>
    rw [outcomeOf_of_error hs, outcomeOf_of_error (herror.trans hs), h.eq_withSec]
    exact h.withSec le_rfl rfl
  | none =>
    rw [outcomeOf_of_no_error hs, outcomeOf_of_no_error (herror.trans hs)]
    exact effectOf_agree h (admitted_of_no_error hs)

/-- Agreeing states take the same move, decode the same word and answer the same (R25). -/
theorem step_agree {s t : State} (h : AgreeOnLoaded s t) :
    ∃ s' t', step s = .next s' ∧ step t = .next t' ∧ AgreeOnLoaded s' t' := by
  obtain ⟨m, rfl⟩ : ∃ m, t = { s with sec := m } := ⟨_, h.eq_withSec⟩
  obtain ⟨hp, hs⟩ | ⟨rest, hp, hs⟩ | ⟨w, rest, hp, ⟨hf, hs⟩ | ⟨hf, why, hd, hs⟩ | ⟨hf, i, hd, hs⟩⟩ := step_cases s
  · exact ⟨_, _, hs, step_of_no_move hp, h⟩
  · exact ⟨_, _, hs, step_of_reset hp, Nat.zero_le _, fun _ _ => rfl, rfl⟩
  · exact ⟨_, _, hs, step_of_halted hp hf, h.withSec le_rfl rfl⟩
  · exact ⟨_, _, hs, step_of_illegal_word hp hf hd, h.withSec le_rfl rfl⟩
  · have hrest : AgreeOnLoaded { s with pending := rest } { s with sec := m, pending := rest } := h.withSec le_rfl rfl
    have ht : step { s with sec := m } = exec i { s with sec := m, pending := rest } := step_of_legal_word hp hf hd
    exact ⟨_, _, hs.trans (exec_eq_outcomeOf i _), ht.trans (exec_eq_outcomeOf i _), outcomeOf_agree i hrest⟩

/-- Agreeing states have agreeing runs. -/
theorem runSteps_agree (k : Nat) {s t : State} (h : AgreeOnLoaded s t) :
    ∃ s' t', runSteps k s = .next s' ∧ runSteps k t = .next t' ∧ AgreeOnLoaded s' t' := by
  induction k generalizing s t with
  | zero => exact ⟨s, t, rfl, rfl, h⟩
  | succ k ih =>
    obtain ⟨s₁, t₁, hs, ht, h₁⟩ := step_agree h
    rw [runSteps_succ k hs, runSteps_succ k ht]
    exact ih h₁

/-! ### The obligations -/

/-- Settles O36: each move of the host leads to a state that meets the invariant, by the ways a command writes. -/
theorem everyStepKeepsStateOk : Obligations.EveryStepKeepsStateOk := by
  intro s t h hst
  obtain ⟨t', ht', hok⟩ := step_ok h
  cases ht'.symm.trans hst
  exact hok

/-- Settles O37: the invariant holds at the start of a run and every step keeps it. -/
theorem reachableStatesKeepTheSixClauses : Obligations.ReachableStatesKeepTheSixClauses := by
  intro hasAcchk moves k s hrun
  have h : StateOk s := runSteps_keeps everyStepKeepsStateOk k (startOfRun_ok hasAcchk moves) hrun
  exact ⟨h.fillCount, h.decodedIsFull, h.tableOfSector, h.undecodedIsZero, h.checkedIsDecoded, h.noValueIsZero⟩

/-- Settles O38: a halted block and an illegal word write nothing to the buffer, nor does any command while it is
full. -/
theorem fullBufferIsImmutable : Obligations.FullBufferIsImmutable := by
  intro s w rest hp isFull
  obtain ⟨hf, hs⟩ | ⟨-, why, hd, hs⟩ | ⟨-, i, hd, hs⟩ := step_command_cases hp
  · exact ⟨_, hs, fun _ => rfl, rfl, .inl isFull, fun hf' => absurd hf' hf⟩
  · refine ⟨_, hs, fun _ => rfl, rfl, .inl isFull, fun _ hpush => ?_⟩
    simp [decode_of_push_word s.hasAcchk hpush] at hd
  · obtain ⟨hsec, hwp⟩ := outcomeOf_of_full i (s := { s with pending := rest }) isFull
    have hword : encode i = w := encode_of_decode hd
    refine ⟨_, hs.trans (exec_eq_outcomeOf i _), memRead1_congr hsec, hsec, ?_, fun _ hpush => ?_⟩
    · obtain hfull | ⟨rfl, hempty⟩ := hwp
      · exact .inl hfull
      · exact .inr ⟨hword.symm, hempty⟩
    · obtain rfl : .push (immField w) = i := by simpa [decode_of_push_word s.hasAcchk hpush] using hd
      have hrefused := outcomeOf_push_of_full (immField w) (s := { s with pending := rest }) isFull
      rw [hrefused, hword]

/-- Settles O39: an error writes the latch only, and the effects write the elements the spec names. -/
theorem onlyTheNamedCommandsWriteEachElement : Obligations.OnlyTheNamedCommandsWriteEachElement := by
  intro i s t hexec
  cases (exec_eq_outcomeOf i s).symm.trans hexec
  obtain ⟨e, he, ho⟩ | ⟨hadm, ho⟩ := outcomeOf_cases i s
  · rw [ho]
    simp [he]
  · have hw := written_of_admitted hadm
    rw [← ho] at hw
    generalize outcomeOf i s = t at hw ⊢
    cases hw with
    | nothing => simp
    | cleared => simp
    | pushed => simp
    | decoded => simp
    | checked => simp

/-- Settles O41: a step reads loaded bytes only. -/
theorem unloadedBytesDoNotMatterToAStep : Obligations.UnloadedBytesDoNotMatterToAStep :=
  fun _ _ h => step_agree h

/-- Settles O42: nothing is loaded at the start of a run, so two runs begin in states that agree. -/
theorem resetContentIsNeverObserved : Obligations.ResetContentIsNeverObserved := by
  intro hasAcchk moves k m n
  have hstart : AgreeOnLoaded { startOfRun hasAcchk moves with sec := m } { startOfRun hasAcchk moves with sec := n } :=
    ⟨Nat.zero_le _, fun _ hk => absurd hk (Nat.not_lt_zero _), rfl⟩
  obtain ⟨s, t, hs, ht, h⟩ := runSteps_agree k hstart
  exact ⟨s, t, hs, ht, (congrArg State.received h.eq_withSec).symm, h.rest⟩

/-- Settles O1: the reset state's elements, and the view of them, by evaluation. -/
theorem resetLeavesTheTableValues : Obligations.ResetLeavesTheTableValues :=
  ⟨rfl, rfl, rfl, rfl, rfl, rfl, rfl, rfl, rfl⟩

/-- Settles O2: it is the invariant's base case. -/
theorem startOfRunIsOk : Obligations.StartOfRunIsOk := startOfRun_ok

end Sys2Proof.Machine

/-! PROOFS. The sector buffer and the host's cut of a dump (20_memory.md): the weights of a field's bytes, the one byte
a step can store, the reading commands done again, and the sectors of a dump. -/

namespace Sys2Proof.Machine

/-! ### 32-bit fields (R33) -/

theorem toNat_append_byte {n : Nat} (x : BitVec n) (b : Byte) : (x ++ b).toNat = 2 ^ 8 * x.toNat + b.toNat := by
  rw [BitVec.toNat_append, ← Nat.shiftLeft_add_eq_or_of_lt b.isLt, Nat.shiftLeft_eq, Nat.mul_comm]

/-- The byte at the lowest offset has the lowest weight. -/
theorem littleEndian32_toNat (b0 b1 b2 b3 : Byte) :
    (littleEndian32 b0 b1 b2 b3).toNat =
      b0.toNat + 2 ^ 8 * b1.toNat + 2 ^ 16 * b2.toNat + 2 ^ 24 * b3.toNat := by
  have hhorner : (littleEndian32 b0 b1 b2 b3).toNat =
      2 ^ 8 * (2 ^ 8 * (2 ^ 8 * b3.toNat + b2.toNat) + b1.toNat) + b0.toNat := by
    rw [← toNat_append_byte, ← toNat_append_byte, ← toNat_append_byte]
    rfl
  omega

/-- Settles O27: both readings are `littleEndian32` of the same bytes. -/
theorem valueFieldsAreLittleEndian : Obligations.ValueFieldsAreLittleEndian :=
  ⟨fun _ _ => littleEndian32_toNat _ _ _ _, fun _ => littleEndian32_toNat _ _ _ _, fun _ _ => rfl⟩

/-! ### What a step does to the sector buffer (R36) -/

/-- The buffer after a command: as before, or with one byte stored at `WP`, inside the buffer. -/
def StoresAtMostAtWp (s : State) (m : Memory) : Prop :=
  m = s.sec ∨ s.wp.toNat < 64 ∧ ∃ v, m = storeByte s.sec s.wp.toNat v

theorem StoresAtMostAtWp.wf {s : State} {m : Memory} (h : StoresAtMostAtWp s m) (hs : Memory.wf s.sec) :
    Memory.wf m := by
  obtain rfl | ⟨room, v, rfl⟩ := h
  · exact hs
  · exact storeByte_wf v room hs

theorem StoresAtMostAtWp.memRead1_eq {s t : State} (h : StoresAtMostAtWp s t.sec) {a : Nat} (ha : a ≠ pushOffset s) :
    memRead1 t a = memRead1 s a := by
  obtain hsec | ⟨-, v, hsec⟩ := h
  · exact memRead1_congr hsec a
  · calc memRead1 t a
      _ = memRead1 (memWrite1 s.wp.toNat v s) a := memRead1_congr hsec a
      _ = if a = s.wp.toNat then v else memRead1 s a := memRead1_memWrite1 s _ a v
      _ = memRead1 s a := if_neg ha

/-- Of the ways an effect writes, only that of `PUSH` stores a byte. -/
theorem written_storesAtMostAtWp {i : Instr} {s t : State} (hw : Written s i t) : StoresAtMostAtWp s t.sec := by
  cases hw with
  | pushed imm room => exact .inr ⟨room, imm, rfl⟩
  | nothing | cleared | decoded | checked => exact .inl rfl

theorem outcomeOf_storesAtMostAtWp (i : Instr) (s : State) : StoresAtMostAtWp s (outcomeOf i s).sec := by
  obtain ⟨e, -, ho⟩ | ⟨hadm, ho⟩ := outcomeOf_cases i s <;> rw [ho]
  · exact .inl rfl
  · exact written_storesAtMostAtWp (written_of_admitted hadm)

/-- A step empties the buffer, on the reset input, or stores at most the byte at `WP`. -/
theorem step_sec_cases {s t : State} (hst : step s = .next t) :
    (∃ rest, s.pending = .reset :: rest ∧ t.sec = []) ∨ StoresAtMostAtWp s t.sec := by
  obtain ⟨-, hs⟩ | ⟨rest, hp, hs⟩ | ⟨w, rest, -, ⟨-, hs⟩ | ⟨-, why, -, hs⟩ | ⟨-, i, -, hs⟩⟩ := step_cases s
  · cases hs.symm.trans hst
    exact .inr (.inl rfl)
  · cases hs.symm.trans hst
    exact .inl ⟨rest, hp, rfl⟩
  · cases hs.symm.trans hst
    exact .inr (.inl rfl)
  · cases hs.symm.trans hst
    exact .inr (.inl rfl)
  · cases (hs.trans (exec_eq_outcomeOf i _)).symm.trans hst
    exact .inr (outcomeOf_storesAtMostAtWp i { s with pending := rest })

/-- Settles O40: the reset input leaves the empty buffer, and any other move at most one byte stored at `WP`. -/
theorem stepWritesAtMostTheByteAtWp : Obligations.StepWritesAtMostTheByteAtWp := by
  intro s t hwf hst
  obtain ⟨rest, hp, hsec⟩ | hstores := step_sec_cases hst
  · exact ⟨hsec ▸ reset_wf, fun hno => absurd hp (hno rest)⟩
  · exact ⟨hstores.wf hwf, fun _ _ ha => hstores.memRead1_eq ha⟩

/-! ### The reading commands done again (R35) -/

/-- The error of a command depends on `WP` and, if the command needs a decoded table, on `CVV`. -/
theorem reportedError_congr {i : Instr} {s t : State} (hwp : t.wp = s.wp)
    (hcvv : needsDecoded i = true → t.cvv = s.cvv) : reportedError i t = reportedError i s := by
  cases hdec : needsDecoded i with
  | true => simp only [reportedError, hwp, hcvv hdec]
  | false => simp [reportedError, hwp, hdec]

/-- `VBCHK` records one check in every state with the same table and the same buffer (R82). -/
theorem effectOf_vbchk_eq_recordCheck (j : Nibble) (s : State) :
    ∃ status value address, ∀ u : State, u.cv = s.cv → u.sec = s.sec →
      effectOf (.vbchk j) u = recordCheck status value address u := by
  have hblock {u : State} (hsec : u.sec = s.sec) : blockBytes u j = blockBytes s j :=
    funext fun _ => memRead1_congr hsec _
  by_cases hv : vcandOf (s.cv.vec j) = true
  · by_cases hok : (vbv (blockBytes s j)).ok = true
    · refine ⟨.value, (vbv (blockBytes s j)).value, (vbv (blockBytes s j)).address, fun u hcv hsec => ?_⟩
      simp [effectOf, hcv, hblock hsec, hv, hok]
    · exact ⟨.malformed, 0#32, 0#8, fun u hcv hsec => by simp [effectOf, hcv, hblock hsec, hv, hok]⟩
  · exact ⟨.plain, 0#32, 0#8, fun u hcv _ => by simp [effectOf, hcv, hv]⟩

section

variable {i : Instr} (hi : i = .acdec ∨ i = .acchk ∨ ∃ j, i = .vbchk j)

include hi

/-- What a reading command reads it does not change: its effect a second time is the answer a second time. -/
theorem effectOf_again_of_reading (s : State) :
    ∃ r, (effectOf i s).received = r :: s.received ∧
      effectOf i (effectOf i s) = { effectOf i s with received := r :: (effectOf i s).received } := by
  obtain rfl | rfl | ⟨j, rfl⟩ := hi
  · exact ⟨_, rfl, rfl⟩
  · exact ⟨_, rfl, rfl⟩
  · obtain ⟨status, value, address, h⟩ := effectOf_vbchk_eq_recordCheck j s
    rw [h s rfl rfl, h (recordCheck status value address s) rfl rfl]
    exact ⟨_, rfl, rfl⟩

/-- A reading command's effect keeps what its checks look at. -/
theorem reportedError_effectOf_of_reading (s : State) :
    reportedError i (effectOf i s) = reportedError i s := by
  obtain rfl | rfl | ⟨j, rfl⟩ := hi
  · exact reportedError_congr rfl nofun
  · exact reportedError_congr rfl nofun
  · obtain ⟨status, value, address, h⟩ := effectOf_vbchk_eq_recordCheck j s
    rw [h s rfl rfl]
    exact reportedError_congr rfl fun _ => rfl

end

/-- Settles O43: an error leaves `WP` and `CVV`, an effect leaves what the command reads, so the outcome is the same
again. -/
theorem readingCommandsAreIdempotent : Obligations.ReadingCommandsAreIdempotent := by
  intro i s hi
  simp only [exec_eq_outcomeOf]
  cases hs : reportedError i s with
  | some e =>
    have hagain : reportedError i (errorAnswer e.bits (encode i) s) = some e :=
      (reportedError_congr rfl fun _ => rfl).trans hs
    refine ⟨_, _, rfl, by rw [outcomeOf_of_error hs]; rfl, ?_⟩
    rw [outcomeOf_of_error hs, outcomeOf_of_error hagain]
    rfl
  | none =>
    obtain ⟨r, hreceived, heffect⟩ := effectOf_again_of_reading hi s
    have hagain : reportedError i (effectOf i s) = none := (reportedError_effectOf_of_reading hi s).trans hs
    refine ⟨_, r, rfl, by rwa [outcomeOf_of_no_error hs], ?_⟩
    rw [outcomeOf_of_no_error hs, outcomeOf_of_no_error hagain, heffect]

/-! ### The sectors of a dump (R43, R126) -/

/-- Of a whole dump the host drops the sectors before and takes one (R126). -/
theorem sectorOfDump_eq_some {dump : List Byte} {n : Nat} (hlen : dump.length = 1024) (hn : n ≤ 15) :
    sectorOfDump dump n = some ((dump.drop (64 * n)).take 64) :=
  if_pos ⟨hlen, Nat.lt_succ_of_le hn⟩

theorem sectorOfDump_eq_none {dump : List Byte} {n : Nat} (h : dump.length ≠ 1024 ∨ 15 < n) :
    sectorOfDump dump n = none :=
  if_neg fun ⟨hlen, hn⟩ => h.elim (· hlen) (Nat.not_lt_of_le (Nat.le_of_lt_succ hn))

/-- Settles O47: the positions are those of a `take` after a `drop`. -/
theorem dumpSectorsArePositional : Obligations.DumpSectorsArePositional := by
  intro dump n
  refine ⟨fun hlen hn => ⟨_, sectorOfDump_eq_some hlen hn, ?_, fun k hk => ?_⟩, sectorOfDump_eq_none⟩
  · rw [List.length_take, List.length_drop]
    omega
  · rw [List.getElem?_take_of_lt hk, List.getElem?_drop]

end Sys2Proof.Machine

/-! PROOFS. The encoding (30_encoding.md): decode of encode, the rows of the opcode map, the four illegal cases, the
codes of the responses, the runs of `LOADSEC` and `DECODE`, and the assembler's examples. -/

namespace Sys2Proof

/-! ### Decode of encode (R47, R53) -/

theorem bareCommand_commandWord (op : Nibble) (i : Instr) : bareCommand (commandWord op 0#4 0#8) i = .ok i := by
  simp [bareCommand, aField_commandWord, immField_commandWord]

theorem indexedCommand_commandWord (op j : Nibble) (command : Nibble → Instr) :
    indexedCommand (commandWord op j 0#8) command = .ok (command j) := by
  simp [indexedCommand, aField_commandWord, immField_commandWord]

theorem pushCommand_commandWord (op : Nibble) (imm : Byte) :
    pushCommand (commandWord op 0#4 imm) = .ok (.push imm) := by
  simp [pushCommand, aField_commandWord, immField_commandWord]

/-- The `op` of a command's word leads the decoder to the command's own row, and the row reads the operand back. -/
theorem decode_encode {hasAcchk : Bool} {i : Instr} (h : i.wellFormed hasAcchk = true) :
    decode hasAcchk (encode i) = .ok i := by
  cases i with
  | push imm =>
    simp only [decode, encode, opField_commandWord]
    exact pushCommand_commandWord _ _
  | acchk =>
    obtain rfl : hasAcchk = true := h
    simp only [decode, encode, opField_commandWord]
    exact (if_pos trivial).trans (bareCommand_commandWord _ _)
  | nop | clr | acdec | keyb =>
    simp only [decode, encode, opField_commandWord]
    exact bareCommand_commandWord _ _
  | rdcv j | role j | dflg j | vcand j | vbchk j | rdreg j =>
    simp only [decode, encode, opField_commandWord]
    exact indexedCommand_commandWord _ _ _

/-- Settles O10: it is `decode_encode`. -/
theorem decodeOfEncodeIsTheCommand : Obligations.DecodeOfEncodeIsTheCommand :=
  fun _ _ h => decode_encode h

/-! ### Every word is one command or illegal (R53) -/

/-- Only the optional command can be missing from a block (R66). -/
theorem wellFormed_iff (hasAcchk : Bool) (i : Instr) :
    i.wellFormed hasAcchk = true ↔ ((opcodeRow i).optional = true → hasAcchk = true) := by
  cases i with
  | acchk => simp [Instr.wellFormed, opcodeRow]
  | _ => simp [Instr.wellFormed, opcodeRow]

/-- Two commands never share a word (R47): a block that has the option reads both back. -/
theorem encode_injective : Function.Injective encode := by
  intro i k h
  have hread (i : Instr) : decode true (encode i) = .ok i := decode_encode ((wellFormed_iff true i).2 fun _ => rfl)
  exact Except.ok.inj ((hread i).symm.trans (h ▸ hread k))

/-- A block without the option refuses the word of `ACCHK` (R48(b)). -/
theorem decode_acchk_word_of_absent : decode false (encode .acchk) = .error .acchkAbsent := by decide

/-- A word decodes only to a command that the block has. -/
theorem wellFormed_of_decode {hasAcchk : Bool} {w : Word16} {i : Instr} (h : decode hasAcchk w = .ok i) :
    i.wellFormed hasAcchk = true := by
  cases i with
  | acchk =>
    cases hasAcchk with
    | true => rfl
    | false =>
      obtain rfl : encode .acchk = w := encode_of_decode h
      cases decode_acchk_word_of_absent.symm.trans h
  | _ => rfl

/-- A word is the word of a command that the block has iff it decodes to that command (R53). -/
theorem decode_eq_ok_iff {hasAcchk : Bool} {w : Word16} {i : Instr} :
    decode hasAcchk w = .ok i ↔ i.wellFormed hasAcchk = true ∧ encode i = w where
  mp h := ⟨wellFormed_of_decode h, encode_of_decode h⟩
  mpr := fun ⟨hwf, hw⟩ => hw ▸ decode_encode hwf

/-- Settles O11: the decoder's two results are the two sides. -/
theorem everyWordIsOneCommandOrIllegal : Obligations.EveryWordIsOneCommandOrIllegal := by
  intro hasAcchk w
  cases hd : decode hasAcchk w with
  | ok i =>
    obtain ⟨hwf, hw⟩ := decode_eq_ok_iff.1 hd
    exact .inl ⟨i, rfl, hwf, hw, fun k _ hk => encode_injective (hk.trans hw.symm)⟩
  | error why =>
    refine .inr ⟨why, rfl, fun k hwf hk => ?_⟩
    cases hd.symm.trans (decode_eq_ok_iff.2 ⟨hwf, hk⟩)

/-! ### The rows of the opcode map (R47) -/

/-- The word of a command lies in the command's row. -/
theorem encode_in_own_row (i : Instr) : (opcodeRow i).covers (encode i) = true := by
  cases i with
  | nop => exact Laws.EncodedInOwnRow.nop
  | clr => exact Laws.EncodedInOwnRow.clr
  | push imm => exact Laws.EncodedInOwnRow.push imm
  | acdec => exact Laws.EncodedInOwnRow.acdec
  | rdcv j => exact Laws.EncodedInOwnRow.rdcv j
  | keyb => exact Laws.EncodedInOwnRow.keyb
  | role j => exact Laws.EncodedInOwnRow.role j
  | dflg j => exact Laws.EncodedInOwnRow.dflg j
  | vcand j => exact Laws.EncodedInOwnRow.vcand j
  | vbchk j => exact Laws.EncodedInOwnRow.vbchk j
  | rdreg r => exact Laws.EncodedInOwnRow.rdreg r
  | acchk => exact Laws.EncodedInOwnRow.acchk

/-- A mask acts field by field (R45). -/
theorem and_commandWord (w : Word16) (op a : Nibble) (imm : Byte) :
    w &&& commandWord op a imm = commandWord (opField w &&& op) (aField w &&& a) (immField w &&& imm) :=
  calc w &&& commandWord op a imm
    _ = commandWord (opField w) (aField w) (immField w) &&& commandWord op a imm := by
      rw [commandWord_of_fields rfl rfl rfl]
    _ = ((opField w ++ aField w) &&& (op ++ a)) ++ (immField w &&& imm) := BitVec.and_append
    _ = commandWord (opField w &&& op) (aField w &&& a) (immField w &&& imm) :=
      congrArg (· ++ (immField w &&& imm)) BitVec.and_append

theorem commandWord_inj {op op' a a' : Nibble} {imm imm' : Byte} :
    commandWord op a imm = commandWord op' a' imm' ↔ op = op' ∧ a = a' ∧ imm = imm' where
  mp h := by
    have hop := congrArg opField h
    have ha := congrArg aField h
    have himm := congrArg immField h
    simp only [opField_commandWord, aField_commandWord, immField_commandWord] at hop ha himm
    exact ⟨hop, ha, himm⟩
  mpr := fun ⟨hop, ha, himm⟩ => by rw [hop, ha, himm]

/-- A row with no free bit covers its pattern only. -/
theorem eq_of_covers_bare {pattern w : Word16} {optional : Bool}
    (h : (OpcodeRow.mk pattern 0xFFFF#16 optional).covers w = true) : pattern = w :=
  (eq_of_beq h).symm.trans BitVec.and_allOnes

/-- A row whose free bits are `imm` covers words with its `op` and with `a` 0. -/
theorem eq_of_covers_push {w : Word16} {op : Nibble}
    (h : (OpcodeRow.mk (commandWord op 0#4 0#8) 0xFF00#16 false).covers w = true) :
    commandWord op 0#4 (immField w) = w := by
  have hand : w &&& commandWord (BitVec.allOnes 4) (BitVec.allOnes 4) 0#8 = commandWord op 0#4 0#8 := eq_of_beq h
  simp only [and_commandWord, BitVec.and_allOnes, commandWord_inj] at hand
  obtain ⟨rfl, ha, -⟩ := hand
  rw [← ha]
  exact fields_of_word w

/-- A row whose free bits are `a` covers words with its `op` and with `imm` 0. -/
theorem eq_of_covers_indexed {w : Word16} {op : Nibble}
    (h : (OpcodeRow.mk (commandWord op 0#4 0#8) 0xF0FF#16 false).covers w = true) :
    commandWord op (aField w) 0#8 = w := by
  have hand : w &&& commandWord (BitVec.allOnes 4) 0#4 (BitVec.allOnes 8) = commandWord op 0#4 0#8 := eq_of_beq h
  simp only [and_commandWord, BitVec.and_allOnes, commandWord_inj] at hand
  obtain ⟨rfl, -, himm⟩ := hand
  rw [← himm]
  exact fields_of_word w

/-- A row covers only words of its own commands. -/
theorem exists_command_of_covers {i : Instr} {w : Word16} (h : (opcodeRow i).covers w = true) :
    ∃ k, opcodeRow k = opcodeRow i ∧ encode k = w := by
  cases i with
  | push _ => exact ⟨.push (immField w), rfl, eq_of_covers_push h⟩
  | rdcv _ => exact ⟨.rdcv (aField w), rfl, eq_of_covers_indexed h⟩
  | role _ => exact ⟨.role (aField w), rfl, eq_of_covers_indexed h⟩
  | dflg _ => exact ⟨.dflg (aField w), rfl, eq_of_covers_indexed h⟩
  | vcand _ => exact ⟨.vcand (aField w), rfl, eq_of_covers_indexed h⟩
  | vbchk _ => exact ⟨.vbchk (aField w), rfl, eq_of_covers_indexed h⟩
  | rdreg _ => exact ⟨.rdreg (aField w), rfl, eq_of_covers_indexed h⟩
  | nop | clr | acdec | keyb | acchk => exact ⟨_, rfl, eq_of_covers_bare h⟩

/-- A row covers exactly the words of its own commands (R47). -/
theorem covers_iff {i : Instr} {w : Word16} :
    (opcodeRow i).covers w = true ↔ ∃ k, opcodeRow k = opcodeRow i ∧ encode k = w where
  mp := exists_command_of_covers
  mpr := by
    rintro ⟨k, hrow, rfl⟩
    exact hrow ▸ encode_in_own_row k

/-- Settles O12: a row covers the words of its own commands, and no two commands share a word. -/
theorem rowOfTheOpcodeMapDecidesTheCommand : Obligations.RowOfTheOpcodeMapDecidesTheCommand := by
  refine ⟨fun hasAcchk w i hwf => ?_, fun w i k hi hk => ?_⟩
  · rw [covers_iff]
    refine exists_congr fun k => ⟨fun ⟨hrow, hw⟩ => ?_, fun ⟨hd, hrow⟩ => ⟨hrow, encode_of_decode hd⟩⟩
    have hwfk : k.wellFormed hasAcchk = true := by
      rw [wellFormed_iff] at hwf ⊢
      rwa [hrow]
    exact ⟨decode_eq_ok_iff.2 ⟨hwfk, hw⟩, hrow⟩
  · obtain ⟨i', hrowi, hwi⟩ := covers_iff.1 hi
    obtain ⟨k', hrowk, hwk⟩ := covers_iff.1 hk
    obtain rfl : i' = k' := encode_injective (hwi.trans hwk.symm)
    exact hrowi.symm.trans hrowk

/-! ### The four illegal cases (R48) -/

/-- The commands without operand and `PUSH` want `a` to be 0 (R48(d)). -/
def WantsZeroA (op : Nibble) : Prop :=
  op = 0x0#4 ∨ op = 0x1#4 ∨ op = 0x2#4 ∨ op = 0x3#4 ∨ op = 0x5#4 ∨ op = 0xB#4

/-- What each of the four cases says of a word's fields (R48(a) to (d)). -/
def InCase (hasAcchk : Bool) (op a : Nibble) (imm : Byte) : IllegalWord → Prop
  | .reservedOpcode => op = 0xC#4 ∨ op = 0xD#4 ∨ op = 0xE#4 ∨ op = 0xF#4
  | .acchkAbsent => op = 0xB#4 ∧ hasAcchk = false
  | .immNotZero => imm ≠ 0#8 ∧ op ≠ 0x2#4
  | .aNotZero => a ≠ 0#4 ∧ WantsZeroA op

section

variable {hasAcchk : Bool} {w : Word16} {why : IllegalWord}

theorem inCase_of_bareCommand {i : Instr} (hbare : WantsZeroA (opField w)) (hpush : opField w ≠ 0x2#4)
    (h : bareCommand w i = .error why) : InCase hasAcchk (opField w) (aField w) (immField w) why := by
  simp only [bareCommand] at h
  split at h
  next himm =>
    cases h
    exact ⟨himm, hpush⟩
  next =>
    split at h
    next ha =>
      cases h
      exact ⟨ha, hbare⟩
    next => cases h

theorem inCase_of_indexedCommand {command : Nibble → Instr} (hpush : opField w ≠ 0x2#4)
    (h : indexedCommand w command = .error why) : InCase hasAcchk (opField w) (aField w) (immField w) why := by
  simp only [indexedCommand] at h
  split at h
  next himm =>
    cases h
    exact ⟨himm, hpush⟩
  next => cases h

theorem inCase_of_pushCommand (hbare : WantsZeroA (opField w)) (h : pushCommand w = .error why) :
    InCase hasAcchk (opField w) (aField w) (immField w) why := by
  simp only [pushCommand] at h
  split at h
  next ha =>
    cases h
    exact ⟨ha, hbare⟩
  next => cases h

/-- The decoder names a case that the word is in. -/
theorem inCase_of_decode (h : decode hasAcchk w = .error why) :
    InCase hasAcchk (opField w) (aField w) (immField w) why := by
  simp only [decode] at h
  split at h
  case h_1 hop | h_2 hop | h_4 hop | h_6 hop =>
    exact inCase_of_bareCommand (by simp [WantsZeroA, BitVec.toNat_eq, hop]) (by simp [BitVec.toNat_eq, hop]) h
  case h_3 hop => exact inCase_of_pushCommand (by simp [WantsZeroA, BitVec.toNat_eq, hop]) h
  case h_5 hop | h_7 hop | h_8 hop | h_9 hop | h_10 hop | h_11 hop =>
    exact inCase_of_indexedCommand (by simp [BitVec.toNat_eq, hop]) h
  case h_12 hop =>
    split at h
    next => exact inCase_of_bareCommand (by simp [WantsZeroA, BitVec.toNat_eq, hop]) (by simp [BitVec.toNat_eq, hop]) h
    next hno =>
      cases h
      exact ⟨BitVec.eq_of_toNat_eq hop, by simpa using hno⟩
  case h_13 =>
    cases h
    simp only [InCase, BitVec.toNat_eq, BitVec.toNat_ofNat, imp_false] at *
    omega

end

/-- The word of a command that the block has is in none of the four cases. -/
theorem not_inCase_of_encode {hasAcchk : Bool} {i : Instr} (hwf : i.wellFormed hasAcchk = true) {op a : Nibble}
    {imm : Byte} (h : encode i = commandWord op a imm) (why : IllegalWord) : ¬ InCase hasAcchk op a imm why := by
  cases i with
  | acchk =>
    obtain rfl : hasAcchk = true := hwf
    obtain ⟨rfl, rfl, rfl⟩ := commandWord_inj.1 h
    cases why <;> simp [InCase]
  | _ =>
    obtain ⟨rfl, rfl, rfl⟩ := commandWord_inj.1 h
    cases why <;> simp [InCase, WantsZeroA]

/-- Settles O13: the decoder's refusals name their case, and a word that is not refused is a command's word, which is
in no case. -/
theorem illegalWordsAreTheFourCases : Obligations.IllegalWordsAreTheFourCases := by
  intro hasAcchk op a imm bare holds
  have hholds (why : IllegalWord) : holds why ↔ InCase hasAcchk op a imm why := by cases why <;> rfl
  simp only [hholds]
  refine ⟨fun why hd => ?_, fun ⟨why, hcase⟩ => ?_⟩
  · simpa only [opField_fields, aField_fields, immField_fields] using inCase_of_decode hd
  · cases hd : decode hasAcchk (op ++ a ++ imm) with
    | error why' => exact ⟨why', rfl⟩
    | ok i =>
      obtain ⟨hwf, hw⟩ := decode_eq_ok_iff.1 hd
      exact absurd hcase (not_inCase_of_encode hwf hw why)

/-- Settles O9: the sixteen words by evaluation. -/
theorem wordsOfEveryFamilyDecode : Obligations.WordsOfEveryFamilyDecode := by
  unfold Obligations.WordsOfEveryFamilyDecode
  decide

end Sys2Proof

namespace Sys2Proof.Machine

/-! ### The codes of the responses (R52, R100) -/

/-- The commands that answer with no result (R52). -/
def AnswersZero (i : Instr) : Prop := i = .nop ∨ i = .clr ∨ (∃ imm, i = .push imm) ∨ i = .acdec

/-- An admitted command answers `OK` and leaves the latch, and the data is 0 where it has no result. -/
theorem effectOf_answer {i : Instr} {s : State} (h : Admitted i s) :
    ∃ d, (effectOf i s).received = ⟨0x0#4, d⟩ :: s.received ∧ (effectOf i s).flt = s.flt ∧
      (AnswersZero i → d = 0#32) := by
  cases i with
  | nop | clr | push imm | acdec => exact ⟨0#32, rfl, rfl, fun _ => rfl⟩
  | vbchk j =>
    obtain ⟨status, value, address, heffect⟩ := effectOf_vbchk_eq_recordCheck j s
    rw [heffect s rfl rfl]
    exact ⟨_, rfl, rfl, by simp [AnswersZero]⟩
  | rdreg r =>
    simp only [effectOf]
    split
    next => exact ⟨_, rfl, rfl, by simp [AnswersZero]⟩
    next hr => exact absurd hr (reg_ne_none_of_le (of_decide_eq_true h.operand))
  | _ => exact ⟨_, rfl, rfl, by simp [AnswersZero]⟩

/-- The words for which R52 wants the data 0 are those of the commands with no result. -/
theorem answersZero_of_word {hasAcchk : Bool} {w : Word16} {i : Instr} (hd : decode hasAcchk w = .ok i)
    (hw : w = 0x0000#16 ∨ w = 0x1000#16 ∨ w.extractLsb' 8 8 = 0x20#8 ∨ w = 0x3000#16) : AnswersZero i := by
  have hword : encode i = w := encode_of_decode hd
  obtain rfl | rfl | hpush | rfl := hw
  · exact .inl (encode_injective (a₂ := .nop) hword)
  · exact .inr (.inl (encode_injective (a₂ := .clr) hword))
  · obtain rfl : .push (immField w) = i := Except.ok.inj ((decode_of_push_word hasAcchk hpush).symm.trans hd)
    exact .inr (.inr (.inl ⟨_, rfl⟩))
  · exact .inr (.inr (.inr (encode_injective (a₂ := .acdec) hword)))

theorem one_le_errorCode_bits (e : ErrorCode) : 1 ≤ e.bits.toNat := by
  cases e <;> decide

/-- Settles O34: the three outcomes of the frame, and a command's error or effect. -/
theorem responsesHaveTheListedCodes : Obligations.ResponsesHaveTheListedCodes := by
  intro s w rest hp
  obtain ⟨hf, hs⟩ | ⟨hf, why, -, hs⟩ | ⟨hf, i, hd, hs⟩ := step_command_cases hp
  · exact ⟨_, _, hs, rfl, .inr (.inr ⟨rfl, hf, rfl, rfl⟩)⟩
  · exact ⟨_, _, hs, rfl, .inr (.inl ⟨one_le_errorCode_bits .illcmd, errorCode_bits_le .illcmd, rfl, hf, rfl⟩)⟩
  · obtain ⟨e, -, ho⟩ | ⟨hadm, ho⟩ := outcomeOf_cases i { s with pending := rest }
    · rw [encode_of_decode hd] at ho
      rw [exec_eq_outcomeOf, ho] at hs
      exact ⟨_, _, hs, rfl, .inr (.inl ⟨one_le_errorCode_bits e, errorCode_bits_le e, rfl, hf, rfl⟩)⟩
    · rw [exec_eq_outcomeOf, ho] at hs
      obtain ⟨d, hreceived, hflt, hzero⟩ := effectOf_answer hadm
      exact ⟨_, _, hs, hreceived, .inl ⟨rfl, hf, hflt.trans hf, fun hw => hzero (answersZero_of_word hd hw)⟩⟩

/-! ### Loading and decoding a sector (R51, R123, R125) -/

theorem movesOf_append (commands later : List Instr) :
    movesOf (commands ++ later) = movesOf commands ++ movesOf later := List.map_append

/-- A running block that has the command has its effect, if no error is reported. -/
theorem step_of_effect {s : State} {i : Instr} {rest : List HostMove} (hp : s.pending = .command (encode i) :: rest)
    (hf : s.flt = 0#4) (hwf : i.wellFormed s.hasAcchk = true) (herror : reportedError i s = none) :
    step s = .next (effectOf i { s with pending := rest }) :=
  calc step s
    _ = exec i { s with pending := rest } := step_of_legal_word hp hf (decode_encode hwf)
    _ = .next (outcomeOf i { s with pending := rest }) := exec_eq_outcomeOf i _
    _ = .next (effectOf i { s with pending := rest }) := congrArg _ (outcomeOf_of_no_error herror)

/-- The state `t` is a running block `s` after these bytes have been pushed to it and answered. -/
structure Pushed (s : State) (bytes : List Byte) (t : State) : Prop where
  fill : t.wp.toNat = s.wp.toNat + bytes.length
  running : t.flt = 0#4
  cvv : t.cvv = s.cvv
  kept : ∀ k, k < s.wp.toNat → loadedByte t.sec k = loadedByte s.sec k
  loaded : ∀ k, k < bytes.length → loadedByte t.sec (s.wp.toNat + k) = bytes[k]?
  received : t.received = List.replicate bytes.length ⟨0x0#4, 0#32⟩ ++ s.received

/-- One byte is pushed, and then the others. -/
theorem pushed_cons {s t : State} {b : Byte} {bytes : List Byte} {later : List HostMove} (room : s.wp.toNat < 64)
    (h : Pushed (effectOf (.push b) { s with pending := later }) bytes t) : Pushed s (b :: bytes) t := by
  obtain ⟨fill, running, cvv, kept, loaded, received⟩ := h
  have hfill : (effectOf (.push b) { s with pending := later }).wp.toNat = s.wp.toNat + 1 := wp_succ_toNat room
  have hsec (k : Nat) : loadedByte (effectOf (.push b) { s with pending := later }).sec k =
      if k = s.wp.toNat then some b else loadedByte s.sec k :=
    loadedByte_storeByte s.sec s.wp.toNat k b
  rw [hfill] at fill kept loaded
  refine ⟨?_, running, cvv, fun k hk => ?_, fun k hk => ?_, ?_⟩
  · rw [fill, List.length_cons]
    omega
  · rw [kept k (by omega), hsec, if_neg (Nat.ne_of_lt hk)]
  · cases k with
    | zero => exact (kept _ (Nat.lt_succ_self _)).trans ((hsec _).trans (if_pos rfl))
    | succ k =>
      rw [← Nat.add_assoc, Nat.add_right_comm]
      exact loaded k (Nat.lt_of_succ_lt_succ hk)
  · rw [received, List.length_cons, List.replicate_succ', List.append_assoc]
    rfl

/-- While there is room, a running block takes one `PUSH` after another (R92, R125). -/
theorem runSteps_push {s : State} {bytes : List Byte} {rest : List HostMove} (hf : s.flt = 0#4)
    (room : s.wp.toNat + bytes.length ≤ 64) (hp : s.pending = movesOf (bytes.map .push) ++ rest) :
    ∃ t, runSteps bytes.length s = .next t ∧ t.pending = rest ∧ Pushed s bytes t := by
  induction bytes generalizing s with
  | nil => exact ⟨s, rfl, hp, rfl, hf, rfl, fun _ _ => rfl, nofun, rfl⟩
  | cons b bytes ih =>
    rw [List.length_cons] at room
    have hroom : s.wp.toNat < 64 := by omega
    have hfill : (s.wp + 1#7).toNat = s.wp.toNat + 1 := wp_succ_toNat hroom
    have herror : reportedError (.push b) s = none := by
      simp [reportedError, operandLegal, needsFull, needsDecoded, needsRoom, hroom]
    have hs := step_of_effect (i := .push b) hp hf rfl herror
    obtain ⟨t, hrun, hrest, hpushed⟩ :=
      ih (s := effectOf (.push b) { s with pending := movesOf (bytes.map .push) ++ rest }) hf
        (by simp only [effectOf, okAnswer_wp, hfill]; omega) rfl
    exact ⟨t, (runSteps_succ _ hs).trans hrun, hrest, pushed_cons hroom hpushed⟩

/-- `LOADSEC` leaves a cleared block with its bytes pushed to it (R51). -/
theorem runSteps_loadSector {s : State} {bytes : List Byte} {rest : List HostMove} (hlen : bytes.length = 64)
    (hf : s.flt = 0#4) (hp : s.pending = movesOf (loadSector bytes) ++ rest) :
    ∃ t, runSteps 65 s = .next t ∧ t.pending = rest ∧ Pushed (okAnswer 0#32 (clearResults s)) bytes t := by
  have hs := step_of_effect (i := .clr) hp hf rfl rfl
  obtain ⟨t, hrun, hrest, hpushed⟩ := runSteps_push (s := effectOf .clr { s with pending := _ }) hf
    (by rw [hlen]; exact le_rfl) rfl
  rw [hlen] at hrun
  exact ⟨t, (runSteps_succ 64 hs).trans hrun, hrest, { hpushed with }⟩

/-- Settles O44: `CLR` leaves nothing counted, and then each of the 64 bytes has room. -/
theorem loadSectorFillsTheBuffer : Obligations.LoadSectorFillsTheBuffer := by
  intro s bytes rest hlen hf hp
  obtain ⟨t, hrun, hrest, hpushed⟩ := runSteps_loadSector hlen hf hp
  obtain ⟨fill, running, cvv, -, loaded, received⟩ := hpushed
  rw [hlen] at fill loaded received
  refine ⟨t, hrun, hrest, BitVec.eq_of_toNat_eq fill, running, cvv, fun k hk => ?_, ?_⟩
  · simpa using loaded k hk
  · rw [received, List.replicate_succ', List.append_assoc]
    rfl

theorem memRead1_of_loaded {s : State} {a : Nat} {v : Byte} (h : loadedByte s.sec a = some v) : memRead1 s a = v := by
  rw [memRead1, h, Option.getD_some]

/-- Settles O45: `LOADSEC` leaves the trailer bytes at offsets 55 and 56 of a full buffer, and `ACDEC` decodes them. -/
theorem decodeSectorGivesTheTableOfItsTrailer : Obligations.DecodeSectorGivesTheTableOfItsTrailer := by
  intro s bytes rest b c hlen hb hc hf hp
  rw [decodeSector, movesOf_append, List.append_assoc] at hp
  obtain ⟨t, hrun, hrest, hfull, hrunning, -, hloaded, hreceived⟩ := loadSectorFillsTheBuffer s bytes _ hlen hf hp
  have hreadB : memRead1 t 55 = b := memRead1_of_loaded ((hloaded 55 (by decide)).trans hb)
  have hreadC : memRead1 t 56 = c := memRead1_of_loaded ((hloaded 56 (by decide)).trans hc)
  have herror : reportedError .acdec t = none := by
    simp [reportedError, operandLegal, needsFull, needsDecoded, needsRoom, hfull]
  have hs := step_of_effect (i := .acdec) hrest hrunning rfl herror
  refine ⟨_, (runSteps_add 65 1 hrun).trans (runSteps_succ 0 hs), rfl, hfull, hrunning, rfl, ?_, ?_, ?_⟩
  · exact congrArg₂ acd hreadB hreadC
  · rw [← hreadB, ← hreadC]
    rfl
  · exact congrArg (⟨0x0#4, 0#32⟩ :: ·) hreceived

/-! ### The assembler (R50, R51) -/

/-- Settles O48: the examples by evaluation. -/
theorem assemblerReadsTheSyntax : Obligations.AssemblerReadsTheSyntax := by
  unfold Obligations.AssemblerReadsTheSyntax
  decide

end Sys2Proof.Machine

/-! PROOFS. The access-condition decoder (40_acd.md) and the lookups over all patterns: the reserved words of the bare
commands, the errors of R107 as rules about `exec`, the bits of the table, and the complement copies. -/

namespace Sys2Proof

/-! ### The fields of a word as its ranges (R45) -/

theorem toNat_eq_fields (w : Word16) :
    w.toNat = 4096 * (opField w).toNat + 256 * (aField w).toNat + (immField w).toNat :=
  (congrArg BitVec.toNat (fields_of_word w)).symm.trans (toNat_fields _ _ _)

/-- The words with one `op` are 4096 in a row. -/
theorem opField_eq_of_range {w : Word16} {op : Nibble} (hlo : 4096 * op.toNat ≤ w.toNat)
    (hhi : w.toNat < 4096 * (op.toNat + 1)) : opField w = op := by
  have hw := toNat_eq_fields w
  apply BitVec.eq_of_toNat_eq
  omega

/-- Only the first of them has `a` and `imm` 0. -/
theorem exists_field_ne_zero {w : Word16} (h : 4096 * (opField w).toNat < w.toNat) :
    immField w ≠ 0#8 ∨ aField w ≠ 0#4 := by
  by_contra! hzero
  have hw := toNat_eq_fields w
  obtain ⟨himm, ha⟩ := hzero
  rw [himm, ha] at hw
  exact h.ne' hw

/-- A word in one of the four cases of R48 is refused. -/
theorem decode_of_inCase {hasAcchk : Bool} {w : Word16} {why : IllegalWord}
    (h : InCase hasAcchk (opField w) (aField w) (immField w) why) : ∃ why, decode hasAcchk w = .error why := by
  have hrefused := (illegalWordsAreTheFourCases hasAcchk (opField w) (aField w) (immField w)).2
  rw [fields_of_word] at hrefused
  exact hrefused ⟨why, by cases why <;> exact h⟩

end Sys2Proof

namespace Sys2Proof.Machine

/-! ### The reserved words of a command without operand (R48(b) to (d), R103) -/

/-- A running block answers a word of the four cases with `E_ILLCMD`. -/
theorem step_of_inCase {s : State} {w : Word16} {rest : List HostMove} {why : IllegalWord}
    (hp : s.pending = .command w :: rest) (hf : s.flt = 0#4)
    (h : InCase s.hasAcchk (opField w) (aField w) (immField w) why) :
    step s = .next (errorAnswer 0x2#4 w { s with pending := rest }) := by
  obtain ⟨_, hd⟩ := decode_of_inCase h
  exact step_of_illegal_word hp hf hd

/-- After the word of a command without operand stand the words that its zero fields reserve. -/
theorem step_of_reserved_word {s : State} {w : Word16} {rest : List HostMove} (op : Nibble) (hbare : WantsZeroA op)
    (hpush : op ≠ 0x2#4) (hp : s.pending = .command w :: rest) (hf : s.flt = 0#4) (hlo : 4096 * op.toNat < w.toNat)
    (hhi : w.toNat < 4096 * (op.toNat + 1)) :
    step s = .next (errorAnswer 0x2#4 w { s with pending := rest }) := by
  obtain rfl : opField w = op := opField_eq_of_range hlo.le hhi
  obtain himm | ha := exists_field_ne_zero hlo
  · exact step_of_inCase (why := .immNotZero) hp hf ⟨himm, hpush⟩
  · exact step_of_inCase (why := .aNotZero) hp hf ⟨ha, hbare⟩

/-! ### The errors in their order (R107), and no error -/

section

variable {i : Instr} {s : State}

theorem exec_of_error {e : ErrorCode} (h : reportedError i s = some e) :
    exec i s = .next (errorAnswer e.bits (encode i) s) :=
  (exec_eq_outcomeOf i s).trans (congrArg _ (outcomeOf_of_error h))

theorem exec_of_no_error (h : reportedError i s = none) : exec i s = .next (effectOf i s) :=
  (exec_eq_outcomeOf i s).trans (congrArg _ (outcomeOf_of_no_error h))

/-- An illegal operand raises `E_RANGE` before the state is looked at. -/
theorem exec_raises_range (hillegal : operandLegal i = false) :
    exec i s = .next (errorAnswer 0x3#4 (encode i) s) :=
  exec_of_error (e := .range) (if_pos hillegal)

/-- Then a buffer that is not full raises `E_SIZE`. -/
theorem exec_raises_size (hlegal : operandLegal i = true) (hneeds : needsFull i = true) (hwp : s.wp ≠ 64#7) :
    exec i s = .next (errorAnswer 0x1#4 (encode i) s) :=
  exec_of_error (e := .size) (by simp [reportedError, hlegal, hneeds, hwp])

/-- Then a table that is not decoded raises `E_NODEC`. -/
theorem exec_raises_nodec (hlegal : operandLegal i = true) (hneeds : needsDecoded i = true) (hwp : s.wp = 64#7)
    (hcvv : s.cvv = false) : exec i s = .next (errorAnswer 0x4#4 (encode i) s) :=
  exec_of_error (e := .nodec) (by simp [reportedError, hlegal, hneeds, hwp, hcvv])

/-- On a full buffer, decoded where that is needed, a command other than `PUSH` has its effect. -/
theorem exec_of_full (hlegal : operandLegal i = true) (hroom : needsRoom i = false) (hwp : s.wp = 64#7)
    (hcvv : needsDecoded i = true → s.cvv = true) : exec i s = .next (effectOf i s) := by
  have herror : reportedError i s = none := by
    simp only [reportedError, hlegal, hroom, hwp]
    simpa using hcvv
  exact exec_of_no_error herror

end

/-- A flag is answered as 0 or 1. -/
theorem zext32_ofBool (b : Bool) : zext32 (BitVec.ofBool b) = if b = true then 1#32 else 0#32 := by
  cases b <;> rfl

/-! ### Encoding a table and decoding it (R60, R65) -/

/-- `acd` is its four vectors. -/
theorem acd_eq_of_vectors {b c : Byte} {t : CvTable}
    (h : ∀ j, j < 4 → acdVector b c j = t.vec (BitVec.ofNat 4 j)) : acd b c = t := by
  rw [acd, h 0 (by decide), h 1 (by decide), h 2 (by decide), h 3 (by decide)]
  rfl

theorem acd_vec (b c : Byte) {j : Nat} (hj : j < 4) : (acd b c).vec (BitVec.ofNat 4 j) = acdVector b c j := by
  match j, hj with
  | 0, _ | 1, _ | 2, _ | 3, _ => rfl

/-- A vector is its three bits (R14). -/
theorem packVec_getLsbD (v : CondVec) : packVec (v.getLsbD 2) (v.getLsbD 1) (v.getLsbD 0) = v := by
  revert v; decide

theorem getLsbD_four_bits (b3 b2 b1 b0 : Bool) (j : Fin 4) :
    (BitVec.ofBool b3 ++ BitVec.ofBool b2 ++ BitVec.ofBool b1 ++ BitVec.ofBool b0 : Nibble).getLsbD j =
      ![b0, b1, b2, b3] j := by
  revert b3 b2 b1 b0 j; decide

/-- Bit `j` of a plane is the plane's bit of the vector of block `j`. -/
theorem planeOf_getLsbD (t : CvTable) (n : Nat) {j : Nat} (hj : j < 4) :
    (planeOf t n).getLsbD j = (t.vec (BitVec.ofNat 4 j)).getLsbD n := by
  match j, hj with
  | 0, _ => exact getLsbD_four_bits _ _ _ _ 0
  | 1, _ => exact getLsbD_four_bits _ _ _ _ 1
  | 2, _ => exact getLsbD_four_bits _ _ _ _ 2
  | 3, _ => exact getLsbD_four_bits _ _ _ _ 3

theorem getLsbD_high_nibble (high low : Nibble) (j : Nat) : (high ++ low : Byte).getLsbD (4 + j) = high.getLsbD j :=
  (BitVec.getLsbD_append (x := high) (y := low)).trans (by simp)

theorem getLsbD_low_nibble (high low : Nibble) {j : Nat} (hj : j < 4) :
    (high ++ low : Byte).getLsbD j = low.getLsbD j :=
  (BitVec.getLsbD_append (x := high) (y := low)).trans (if_pos hj)

/-- The three bits that `acd` takes for block `j` are those `enc` put there, and none of the four arbitrary ones. -/
theorem acdVector_enc (t : CvTable) (low : Nibble) {j : Nat} (hj : j < 4) :
    acdVector (encB t low) (encC t) j = t.vec (BitVec.ofNat 4 j) := by
  rw [acdVector, encB, encC, getLsbD_high_nibble, getLsbD_low_nibble _ _ hj, getLsbD_high_nibble,
    planeOf_getLsbD t _ hj, planeOf_getLsbD t _ hj, planeOf_getLsbD t _ hj, packVec_getLsbD]

theorem acd_enc (t : CvTable) (low : Nibble) : acd (encB t low) (encC t) = t :=
  acd_eq_of_vectors fun _ hj => acdVector_enc t low hj

/-! ### What does not depend on the complement copies (R67) -/

/-- Of access byte B, `acd` takes the high nibble only. -/
theorem acd_congr {b b' : Byte} (c : Byte) (h : b.extractLsb' 4 4 = b'.extractLsb' 4 4) : acd b c = acd b' c := by
  refine acd_eq_of_vectors fun j hj => ?_
  have hb : b.getLsbD (4 + j) = b'.getLsbD (4 + j) := by
    simpa [BitVec.getLsbD_extractLsb', hj] using congrArg (·.getLsbD j) h
  rw [acd_vec b' c hj, acdVector, acdVector, hb]

/-- One of the two states is the other with another buffer. -/
theorem AgreeOutsideComplements.eq_withSec {s t : State} (h : AgreeOutsideComplements s t) :
    t = { s with sec := t.sec } := by
  rw [← h.rest]

/-- The two sectors have the same condition vectors. -/
theorem AgreeOutsideComplements.acd_eq {s t : State} (h : AgreeOutsideComplements s t) :
    acd (memRead1 t 55) (memRead1 t 56) = acd (memRead1 s 55) (memRead1 s 56) := by
  rw [acd_congr _ h.highNibble, h.bytes 56 (by decide) (by decide) (by decide)]

/-- The two sectors have the same data blocks: access bytes stand in the trailer (R31). -/
theorem AgreeOutsideComplements.blockBytes_eq {s t : State} (h : AgreeOutsideComplements s t) {j : Nibble}
    (hj : j.toNat ≤ 2) : blockBytes t j = blockBytes s j := by
  funext k
  have hoffset : blockOffset j k < 48 := by
    simp only [blockOffset, Config.blockBytes]
    omega
  exact (h.bytes _ (by omega) (by omega) (by omega)).symm

/-- An admitted command but `ACCHK` has the same effect on the two, and leaves each its own buffer. -/
theorem effectOf_withSec {i : Instr} {s : State} {m : Memory} (hi : i ≠ .acchk)
    (h : AgreeOutsideComplements s { s with sec := m }) (hadm : Admitted i s) :
    (effectOf i s).sec = s.sec ∧ effectOf i { s with sec := m } = { effectOf i s with sec := m } := by
  refine ⟨(written_of_full (written_of_admitted hadm) h.full).1, ?_⟩
  cases i with
  | acchk => exact absurd rfl hi
  | push imm => exact absurd (hadm.room rfl) (by simp [h.full])
  | acdec =>
    simp only [effectOf, h.acd_eq]
    rfl
  | vbchk j =>
    simp only [effectOf, h.blockBytes_eq (of_decide_eq_true hadm.operand)]
    split
    · split <;> rfl
    · rfl
  | rdreg r =>
    simp only [effectOf]
    split <;> rfl
  | _ => rfl

/-- The two report the same error or have the same effect. -/
theorem outcomeOf_withSec {i : Instr} {s : State} {m : Memory} (hi : i ≠ .acchk)
    (h : AgreeOutsideComplements s { s with sec := m }) :
    (outcomeOf i s).sec = s.sec ∧ outcomeOf i { s with sec := m } = { outcomeOf i s with sec := m } := by
  have herror : reportedError i { s with sec := m } = reportedError i s := rfl
  cases hs : reportedError i s with
  | some e =>
    rw [outcomeOf_of_error hs, outcomeOf_of_error (herror.trans hs)]
    exact ⟨rfl, rfl⟩
  | none =>
    rw [outcomeOf_of_no_error hs, outcomeOf_of_no_error (herror.trans hs)]
    exact effectOf_withSec hi h (admitted_of_no_error hs)

/-! ### The complement check, bit by bit (R66) -/

/-- The nibble at bit `m` of `x` is the complement of the nibble at bit `n` of `y`. -/
theorem extract_beq_not_extract_iff (x y : Byte) (m n : Nat) :
    (x.extractLsb' m 4 == ~~~(y.extractLsb' n 4)) = true ↔
      ∀ k, k < 4 → x.getLsbD (m + k) = !y.getLsbD (n + k) := by
  rw [beq_iff_eq, BitVec.eq_of_getLsbD_eq_iff]
  exact forall₂_congr fun k hk => by simp [hk]

theorem complementsAgree_iff (a b c : Byte) :
    complementsAgree a b c = true ↔ ∀ k, k < 4 →
      a.getLsbD k = !b.getLsbD (4 + k) ∧ a.getLsbD (4 + k) = !c.getLsbD k ∧ b.getLsbD k = !c.getLsbD (4 + k) := by
  simp only [complementsAgree, Bool.and_eq_true, extract_beq_not_extract_iff, Nat.zero_add, forall_and, and_assoc]

/-! ### The obligations -/

/-- Settles O23: the table is `acd` of its own `enc`, whatever the four arbitrary bits are. -/
theorem accessBytesRoundTrip : Obligations.AccessBytesRoundTrip :=
  ⟨acd_enc, fun t => ⟨encB t 0#4, encC t, acd_enc t 0#4⟩⟩

/-- Settles O24: the two states have one outcome, but for the buffers. -/
theorem complementCopiesAreDontCare : Obligations.ComplementCopiesAreDontCare := by
  intro i s t hi h
  obtain ⟨m, rfl⟩ : ∃ m, t = { s with sec := m } := ⟨_, h.eq_withSec⟩
  obtain ⟨hsec, ht⟩ := outcomeOf_withSec hi h
  refine ⟨_, _, exec_eq_outcomeOf i s, exec_eq_outcomeOf i _, ?_⟩
  rw [ht]
  exact ⟨rfl, rfl, hsec, rfl⟩

/-- Settles O18: it is the definition, the bit numbers added up. -/
theorem acdTakesTheTwelveBits : Obligations.AcdTakesTheTwelveBits :=
  fun _ _ => ⟨rfl, rfl, rfl, rfl⟩

/-- Settles O19: the one check of `ACDEC`, its effect, and the words its zero fields reserve. -/
theorem acdecDecodesTheBufferedTrailer : Obligations.AcdecDecodesTheBufferedTrailer :=
  ⟨rfl, fun _ hwp => exec_raises_size rfl rfl hwp, fun _ hwp => exec_of_full rfl rfl hwp nofun,
    fun _ _ _ hp hf hlo hhi =>
      step_of_reserved_word 0x3#4 (by simp [WantsZeroA]) (by decide) hp hf hlo (Nat.lt_succ_of_le hhi),
    by decide⟩

/-- Settles O20: the three checks of `RDCV` in their order, and its effect for each of the four blocks. -/
theorem rdcvReadsTheVector : Obligations.RdcvReadsTheVector := by
  intro s
  refine ⟨fun _ => rfl, fun j hj => ?_, fun j hj hwp => ?_, fun j hj hwp hcvv => ?_, fun hwp hcvv => ?_⟩
  · exact exec_raises_range (decide_eq_false (Nat.not_le_of_lt hj))
  · exact exec_raises_size (decide_eq_true hj) rfl hwp
  · exact exec_raises_nodec (decide_eq_true hj) rfl hwp hcvv
  · have hread {j : Nibble} (hj : j.toNat ≤ 3) : exec (.rdcv j) s = .next (okAnswer (zext32 (s.cv.vec j)) s) :=
      exec_of_full (decide_eq_true hj) rfl hwp fun _ => hcvv
    exact ⟨hread (by decide), hread (by decide), hread (by decide), hread (by decide)⟩

theorem exec_keyb_of_decoded {s : State} (hwp : s.wp = 64#7) (hcvv : s.cvv = true) :
    exec .keyb s = .next (okAnswer (if s.kbu = true then 1#32 else 0#32) s) := by
  rw [← zext32_ofBool]
  exact exec_of_full rfl rfl hwp fun _ => hcvv

/-- Settles O21: the two checks of `KEYB` in their order, its effect, and clause (c) of the invariant. -/
theorem keybReadsTheKeyBBit : Obligations.KeybReadsTheKeyBBit := by
  refine ⟨rfl, fun _ hwp => exec_raises_size rfl rfl hwp, fun _ hwp hcvv => exec_raises_nodec rfl rfl hwp hcvv,
    fun _ hwp hcvv => exec_keyb_of_decoded hwp hcvv, fun s hok hwp hcvv => ?_, fun s w rest hp hf hlo hhi => ?_,
    by decide⟩
  · obtain ⟨-, hkbu⟩ := hok.tableOfSector hcvv
    rw [← hkbu]
    exact exec_keyb_of_decoded hwp hcvv
  · exact step_of_reserved_word 0x5#4 (by simp [WantsZeroA]) (by decide) hp hf hlo (Nat.lt_succ_of_le hhi)

/-- Settles O22: the one check of `ACCHK`, the complement check bit by bit, and the words of opcode 0xB that are no
command of the block. -/
theorem acchkChecksTheComplements : Obligations.AcchkChecksTheComplements := by
  refine ⟨rfl, fun _ hwp => exec_raises_size rfl rfl hwp, fun s hwp => ?_, fun s w rest hp hf hlo hhi hno => ?_,
    by decide⟩
  · refine ⟨complementsAgree (memRead1 s 54) (memRead1 s 55) (memRead1 s 56), ?_, complementsAgree_iff _ _ _⟩
    rw [← zext32_ofBool]
    exact exec_of_full rfl rfl hwp nofun
  · obtain habsent | hword := hno
    · have hop : opField w = 0xB#4 := opField_eq_of_range hlo (Nat.lt_succ_of_le hhi)
      exact step_of_inCase (why := .acchkAbsent) hp hf ⟨hop, habsent⟩
    · have hlo : 0xB000 < w.toNat := hlo.lt_of_ne' fun h => hword (BitVec.eq_of_toNat_eq h)
      exact step_of_reserved_word 0xB#4 (by simp [WantsZeroA]) (by decide) hp hf hlo (Nat.lt_succ_of_le hhi)

/-- The patterns with the "d" flag are the transport pattern and the candidates (R71, R72). -/
theorem dflagOf_eq (c : CondVec) : dflagOf c = (c == 0b000#3 || vcandOf c) :=
  Bool.or_assoc _ _ _

/-- Settles O25: the eight patterns by evaluation, and a candidate is one of the patterns with the "d" flag. -/
theorem lookupsOverAllPatterns : Obligations.LookupsOverAllPatterns :=
  ⟨by decide, fun c hc => by rw [dflagOf_eq, hc, Bool.or_true]⟩

end Sys2Proof.Machine

/-! PROOFS. The classification lookups as commands (41_classify.md R73 to R75). -/

namespace Sys2Proof.Machine

/-- The data blocks are 0 to 2, and each has its own vector in the table (R13, R46). -/
theorem vec_of_dataBlock {t : CvTable} {j : Nibble} {c : CondVec}
    (hj : j = 0#4 ∧ t.b0 = c ∨ j = 1#4 ∧ t.b1 = c ∨ j = 2#4 ∧ t.b2 = c) : j.toNat ≤ 2 ∧ t.vec j = c := by
  obtain ⟨rfl, hc⟩ | ⟨rfl, hc⟩ | ⟨rfl, hc⟩ := hj
  · exact ⟨by decide, hc⟩
  · exact ⟨by decide, hc⟩
  · exact ⟨by decide, hc⟩

/-- Settles O26: the three checks of the lookups in their order, and their answers for a data block's vector. -/
theorem lookupsAnswerForDataBlocks : Obligations.LookupsAnswerForDataBlocks := by
  intro j s
  refine ⟨⟨rfl, rfl, rfl⟩, fun hj => ?range, fun hj hwp => ?size, fun hj hwp hcvv => ?nodec,
    fun c hwp hcvv hblock => ?answer⟩
  case range =>
    have hillegal : decide (j.toNat ≤ 2) = false := decide_eq_false (Nat.not_le_of_lt hj)
    exact ⟨exec_raises_range hillegal, exec_raises_range hillegal, exec_raises_range hillegal⟩
  case size =>
    have hlegal : decide (j.toNat ≤ 2) = true := decide_eq_true hj
    exact ⟨exec_raises_size hlegal rfl hwp, exec_raises_size hlegal rfl hwp, exec_raises_size hlegal rfl hwp⟩
  case nodec =>
    have hlegal : decide (j.toNat ≤ 2) = true := decide_eq_true hj
    exact ⟨exec_raises_nodec hlegal rfl hwp hcvv, exec_raises_nodec hlegal rfl hwp hcvv,
      exec_raises_nodec hlegal rfl hwp hcvv⟩
  case answer =>
    obtain ⟨hj, rfl⟩ := vec_of_dataBlock hblock
    have hlegal : decide (j.toNat ≤ 2) = true := decide_eq_true hj
    rw [← zext32_ofBool, ← zext32_ofBool]
    exact ⟨exec_of_full hlegal rfl hwp fun _ => hcvv, exec_of_full hlegal rfl hwp fun _ => hcvv,
      exec_of_full hlegal rfl hwp fun _ => hcvv⟩

end Sys2Proof.Machine

/-! PROOFS. The value-block validator: which blocks are valid, what one changed byte does, `VBCHK`, and the signed
reading of `VAL` (42_vbv.md). -/

namespace Sys2Proof.Machine

/-! ### Valid blocks (R80, R81, R83(a)) -/

theorem xor_ff_eq_not (x : Byte) : x ^^^ 0xFF#8 = ~~~x := BitVec.xor_allOnes

/-- Two bytes are complements of each other whichever is written first. -/
theorem eq_xor_ff_comm {x y : Byte} : x = y ^^^ 0xFF#8 ↔ y = x ^^^ 0xFF#8 := by
  rw [xor_ff_eq_not, xor_ff_eq_not]
  exact BitVec.not_eq_comm.symm.trans eq_comm

/-- Two fields are equal iff their bytes are. -/
theorem littleEndian32_inj {a0 a1 a2 a3 b0 b1 b2 b3 : Byte} :
    littleEndian32 a0 a1 a2 a3 = littleEndian32 b0 b1 b2 b3 ↔ a0 = b0 ∧ a1 = b1 ∧ a2 = b2 ∧ a3 = b3 := by
  simp only [← BitVec.toNat_inj, littleEndian32_toNat]
  omega

/-- `v1 = v2` (R81), byte by byte. -/
theorem littleEndian32_eq_complement_iff {a0 a1 a2 a3 b0 b1 b2 b3 : Byte} :
    littleEndian32 a0 a1 a2 a3 = littleEndian32 (b0 ^^^ 0xFF#8) (b1 ^^^ 0xFF#8) (b2 ^^^ 0xFF#8) (b3 ^^^ 0xFF#8) ↔
      b0 = a0 ^^^ 0xFF#8 ∧ b1 = a1 ^^^ 0xFF#8 ∧ b2 = a2 ^^^ 0xFF#8 ∧ b3 = a3 ^^^ 0xFF#8 :=
  littleEndian32_inj.trans
    (and_congr eq_xor_ff_comm (and_congr eq_xor_ff_comm (and_congr eq_xor_ff_comm eq_xor_ff_comm)))

/-- The chain of R81 over the four address bytes is two equal pairs of complementary bytes. -/
theorem address_chain_iff {a1 a2 a3 a4 : Byte} :
    (a1 = a2 ^^^ 0xFF#8 ∧ a2 ^^^ 0xFF#8 = a3 ∧ a3 = a4 ^^^ 0xFF#8) ↔ (a3 = a1 ∧ a4 = a2 ∧ a2 = a1 ^^^ 0xFF#8) := by
  constructor
  · rintro ⟨rfl, rfl, h⟩
    exact ⟨rfl, ((BitVec.xor_left_inj _).1 h).symm, eq_xor_ff_comm.1 rfl⟩
  · rintro ⟨rfl, rfl, h⟩
    exact ⟨eq_xor_ff_comm.1 h, (eq_xor_ff_comm.1 h).symm, eq_xor_ff_comm.1 h⟩

/-- R83(a). The comparison with `v3`, which is `v1` again, adds nothing. -/
theorem vbv_ok_iff (b : BlockBytes) :
    (vbv b).ok = true ↔
      b 4 = b 0 ^^^ 0xFF#8 ∧ b 5 = b 1 ^^^ 0xFF#8 ∧ b 6 = b 2 ^^^ 0xFF#8 ∧ b 7 = b 3 ^^^ 0xFF#8 ∧
      b 14 = b 12 ∧ b 15 = b 13 ∧ b 13 = b 12 ^^^ 0xFF#8 := by
  have hsecondRead (v1 v2 : Word32) : (v1 = v2 ∧ v2 = v1) ↔ v1 = v2 := and_iff_left_of_imp Eq.symm
  simp only [vbv, Bool.and_eq_true, beq_iff_eq, hsecondRead]
  simp only [littleEndian32_eq_complement_iff, address_chain_iff, and_assoc]

/-- Settles O28: the comparisons of R81, byte by byte. -/
theorem validBlockIsTheComplementPattern : Obligations.ValidBlockIsTheComplementPattern :=
  fun b => ⟨vbv_ok_iff b, rfl, rfl⟩

/-! ### One changed byte (R83(b), R83(c)) -/

/-- The bytes that `vbv` reads: all but 8 to 11. -/
abbrev ReadByVbv (k : Fin 16) : Prop := k.val < 8 ∨ 12 ≤ k.val

/-- The byte that byte `k` of a valid block is the complement of: four away in the value, the neighbour in the
address. -/
def complementIndex (k : Fin 16) : Fin 16 := if k.val < 8 then k ^^^ 4 else k ^^^ 1

theorem complementIndex_ne (k : Fin 16) : complementIndex k ≠ k := by
  revert k; decide

theorem complementIndex_complementIndex (k : Fin 16) : complementIndex (complementIndex k) = k := by
  revert k; decide

/-- One byte of each pair of complements. -/
def laterOfPair : List (Fin 16) := [4, 5, 6, 7, 13, 15]

theorem mem_laterOfPair (k : Fin 16) (hread : ReadByVbv k) : k ∈ laterOfPair ∨ complementIndex k ∈ laterOfPair := by
  revert k; decide

/-- In a valid block every byte that is read is the complement of another one. -/
theorem eq_complement_of_valid {b : BlockBytes} (h : (vbv b).ok = true) {k : Fin 16} (hread : ReadByVbv k) :
    b k = b (complementIndex k) ^^^ 0xFF#8 := by
  have hlater : ∀ i ∈ laterOfPair, b i = b (complementIndex i) ^^^ 0xFF#8 := by
    obtain ⟨h4, h5, h6, h7, h14, h15, h13⟩ := (vbv_ok_iff b).1 h
    have h15' : b 15 = b 14 ^^^ 0xFF#8 := by rw [h15, h14, h13]
    simp only [laterOfPair, List.forall_mem_cons]
    exact ⟨h4, h5, h6, h7, h13, h15', nofun⟩
  obtain hk | hk := mem_laterOfPair k hread
  · exact hlater k hk
  · have hpair := hlater _ hk
    rw [complementIndex_complementIndex] at hpair
    exact eq_xor_ff_comm.1 hpair

/-- Bytes 8 to 11 have no influence (R83(b)). -/
theorem vbv_congr {b c : BlockBytes} (h : ∀ k, ReadByVbv k → b k = c k) : vbv b = vbv c := by
  simp (disch := decide) only [vbv, h]

/-- Settles O29: a byte that is read is fixed by the byte it is the complement of. -/
theorem oneChangedByteIsCaughtOutsideTheThirdCopy : Obligations.OneChangedByteIsCaughtOutsideTheThirdCopy := by
  intro b k v hvalid hv changed
  refine ⟨fun hread => Bool.eq_false_iff.2 fun hstill => hv ?caught, fun hunread => vbv_congr fun n hn => ?unread⟩
  case caught =>
    calc v
      _ = changed k := (if_pos rfl).symm
      _ = changed (complementIndex k) ^^^ 0xFF#8 := eq_complement_of_valid hstill hread
      _ = b (complementIndex k) ^^^ 0xFF#8 := congrArg (· ^^^ 0xFF#8) (if_neg (complementIndex_ne k))
      _ = b k := (eq_complement_of_valid hvalid hread).symm
  case unread =>
    have hne : n ≠ k := by
      rintro rfl
      simp only [ReadByVbv] at hn
      omega
    exact if_neg hne

/-! ### `VBCHK` (R82) -/

section

variable {j : Nibble} {s : State}

theorem effectOf_vbchk_plain (hcand : vcandOf (s.cv.vec j) = false) :
    effectOf (.vbchk j) s = recordCheck .plain 0#32 0#8 s := by
  simp [effectOf, hcand]

theorem effectOf_vbchk_value (hcand : vcandOf (s.cv.vec j) = true) (hok : (vbv (blockBytes s j)).ok = true) :
    effectOf (.vbchk j) s =
      recordCheck .value (vbv (blockBytes s j)).value (vbv (blockBytes s j)).address s := by
  simp [effectOf, hcand, hok]

theorem effectOf_vbchk_malformed (hcand : vcandOf (s.cv.vec j) = true) (hok : (vbv (blockBytes s j)).ok = false) :
    effectOf (.vbchk j) s = recordCheck .malformed 0#32 0#8 s := by
  simp [effectOf, hcand, hok]

end

/-- Settles O30: the three checks in their order, and the three outcomes of an admitted `VBCHK`. -/
theorem vbchkClassifiesTheBlock : Obligations.VbchkClassifiesTheBlock := by
  intro j s
  refine ⟨rfl, fun hj => ?range, fun hj hwp => ?size, fun hj hwp hcvv => ?nodec, fun c hwp hcvv hblock => ?outcome⟩
  case range => exact exec_raises_range (decide_eq_false (Nat.not_le_of_lt hj))
  case size => exact exec_raises_size (decide_eq_true hj) rfl hwp
  case nodec => exact exec_raises_nodec (decide_eq_true hj) rfl hwp hcvv
  case outcome =>
    obtain ⟨hj, rfl⟩ := vec_of_dataBlock hblock
    have heffect : exec (.vbchk j) s = .next (effectOf (.vbchk j) s) :=
      exec_of_full (decide_eq_true hj) rfl hwp fun _ => hcvv
    exact ⟨fun hcand => heffect.trans (congrArg _ (effectOf_vbchk_plain hcand)),
      fun hcand hok => heffect.trans (congrArg _ (effectOf_vbchk_value hcand hok)),
      fun hcand hok => heffect.trans (congrArg _ (effectOf_vbchk_malformed hcand hok))⟩

/-! ### Reading `VAL` as a signed number, and the complement of a byte (R84) -/

/-- The integer that `VAL` denotes is the library's two's complement one. -/
theorem signedValue_eq_toInt (v : Word32) : signedValue v = v.toInt := by
  rw [BitVec.toInt_eq_msb_cond, BitVec.msb_eq_getLsbD_last]
  rfl

/-- Settles O31: the facts about `BitVec.toInt`, and `0xFF` as all ones. -/
theorem signedReadingIsTwosComplement : Obligations.SignedReadingIsTwosComplement := by
  refine ⟨fun v => ⟨fun h => if_neg (ne_true_of_eq_false h), fun h => if_pos h, ?low, ?high⟩,
    fun v w h => ?injective, fun x => ?complement⟩
  case low => exact signedValue_eq_toInt v ▸ BitVec.le_toInt v
  case high => exact signedValue_eq_toInt v ▸ BitVec.toInt_le (x := v)
  case injective =>
    rw [signedValue_eq_toInt, signedValue_eq_toInt] at h
    exact BitVec.eq_of_toInt_eq h
  case complement =>
    calc (x ^^^ 0xFF#8).toNat
      _ = (~~~x).toNat := congrArg BitVec.toNat (xor_ff_eq_not x)
      _ = 255 - x.toNat := BitVec.toNat_not

end Sys2Proof.Machine

/-! PROOFS. The buffer and system commands (43_system.md): `STAT` and `CVT` by their weights, what `RDREG`, `PUSH` and
`CLR` do, and the words that their zero fields reserve. -/

namespace Sys2Proof.Machine

/-! ### The registers by their weights (R21, R22) -/

/-- The left part of a concatenation weighs what the width of the right part says. -/
theorem toNat_append_weight {m n : Nat} (x : BitVec m) (y : BitVec n) :
    (x ++ y).toNat = 2 ^ n * x.toNat + y.toNat := by
  rw [BitVec.toNat_append, ← Nat.shiftLeft_add_eq_or_of_lt y.isLt, Nat.shiftLeft_eq, Nat.mul_comm]

/-- A register of at most 32 bits is answered as its own number (R7). -/
theorem zext32_toNat {n : Nat} (hn : n ≤ 32) (v : BitVec n) : (zext32 v).toNat = v.toNat :=
  BitVec.toNat_setWidth_of_le hn

theorem full_toNat (s : State) : (full s).toNat = if s.wp = 64#7 then 1 else 0 := by
  by_cases h : s.wp = 64#7
  · rw [if_pos h, (full_iff s).2 h, Bool.toNat_true]
  · rw [if_neg h, (full_false_iff s).2 h, Bool.toNat_false]

theorem statView_toNat (s : State) :
    (statView s).toNat =
      (if s.wp = 64#7 then 1 else 0) + 2 * s.cvv.toNat + 4 * s.kbu.toNat + 8 * s.vst.code.toNat := by
  rw [← full_toNat, statView, zext32_toNat (by decide)]
  simp only [toNat_append_weight, BitVec.toNat_ofBool]
  omega

theorem cvtView_toNat (s : State) :
    (cvtView s).toNat = s.cv.b0.toNat + 8 * s.cv.b1.toNat + 64 * s.cv.b2.toNat + 512 * s.cv.b3.toNat := by
  rw [cvtView, zext32_toNat (by decide)]
  simp only [toNat_append_weight]
  omega

/-- `RDREG` of a register's number answers the register's value. -/
theorem exec_rdreg_of_reg {r : Nibble} {reg : Reg} (s : State) (hreg : Reg.ofNumber r = some reg) :
    exec (.rdreg r) s = .next (okAnswer (regValue s reg) s) := by
  simp only [exec, execRdreg, hreg]
  rfl

/-! ### A byte pushed (R92) -/

/-- A buffer with no room raises `E_OVF`. -/
theorem exec_push_of_no_room (imm : Byte) {s : State} (hroom : 64 ≤ s.wp.toNat) :
    exec (.push imm) s = .next (errorAnswer 0x5#4 (encode (.push imm)) s) :=
  exec_of_error (e := .ovf) (by simp [reportedError, operandLegal, needsFull, needsDecoded, needsRoom, hroom])

theorem exec_push_of_room (imm : Byte) {s : State} (room : s.wp.toNat < 64) :
    exec (.push imm) s = .next (effectOf (.push imm) s) :=
  exec_of_no_error (by simp [reportedError, operandLegal, needsFull, needsDecoded, needsRoom, room])

/-- The byte is read back at the offset that `WP` was, and every other offset reads as before. -/
theorem memRead1_effectOf_push (imm : Byte) (s : State) (a : Nat) :
    memRead1 (effectOf (.push imm) s) a = if a = pushOffset s then imm else memRead1 s a :=
  memRead1_memWrite1 s s.wp.toNat a imm

/-- The buffer becomes full with the 64th byte. -/
theorem full_effectOf_push_iff (imm : Byte) {s : State} (room : s.wp.toNat < 64) :
    full (effectOf (.push imm) s) = true ↔ s.wp.toNat = 63 := by
  have hwp : (effectOf (.push imm) s).wp.toNat = s.wp.toNat + 1 := wp_succ_toNat room
  rw [full_iff, BitVec.toNat_eq, hwp]
  exact Nat.add_right_cancel_iff (k := 63)

/-- A buffer with room is not decoded (R23(b)). -/
theorem StateOk.cvv_of_room {s : State} (h : StateOk s) (room : s.wp.toNat < 64) : s.cvv = false :=
  Bool.eq_false_iff.2 fun hd => Nat.ne_of_lt room (h.decodedIsFull hd)

/-! ### A word by its fields (R103) -/

/-- A running block answers a word put together from fields of the four cases with `E_ILLCMD`. -/
theorem step_of_fields_inCase {s : State} {op a : Nibble} {imm : Byte} {rest : List HostMove} {why : IllegalWord}
    (hp : s.pending = .command (op ++ a ++ imm) :: rest) (hf : s.flt = 0#4) (h : InCase s.hasAcchk op a imm why) :
    step s = .next (errorAnswer 0x2#4 (op ++ a ++ imm) { s with pending := rest }) :=
  step_of_inCase hp hf (by rwa [opField_fields, aField_fields, immField_fields])

/-! ### A cleared block (R91) -/

theorem statView_clear (s : State) : statView (effectOf .clr s) = 0x00000000#32 :=
  BitVec.eq_of_toNat_eq (statView_toNat _)

/-- A cleared block that runs is a reset one, but for `SEC`, the parameter and the ports (R26). -/
theorem effectOf_clr_eq_reset {s : State} (hf : s.flt = 0#4) :
    { effectOf .clr s with sec := [], hasAcchk := State.reset.hasAcchk, pending := [], received := [] } =
      State.reset :=
  congrArg (fun flt => { State.reset with flt := flt }) hf

/-! ### The obligations -/

/-- Settles O17: a legal number has a register, whose value the views give by their weights; no other operand is
legal, and `imm` must be 0. -/
theorem rdregReadsEachRegister : Obligations.RdregReadsEachRegister := by
  refine ⟨fun r s => ⟨rfl, fun hr => ?range, fun hr => ?value⟩, fun s r imm rest hp hf himm => ?reserved⟩
  case range => exact exec_raises_range (decide_eq_false (Nat.not_le_of_lt hr))
  case value =>
    obtain ⟨reg, hreg⟩ := Option.ne_none_iff_exists'.1 (reg_ne_none_of_le hr)
    refine ⟨regValue s reg, exec_rdreg_of_reg s hreg, ?stat, ?wp, ?cvt, ?val, ?adr⟩
    case stat => rintro rfl; cases hreg; exact statView_toNat s
    case wp => rintro rfl; cases hreg; exact zext32_toNat (by decide) s.wp
    case cvt => rintro rfl; cases hreg; exact cvtView_toNat s
    case val => rintro rfl; cases hreg; rfl
    case adr => rintro rfl; cases hreg; exact zext32_toNat (by decide) s.adr
  case reserved => exact step_of_fields_inCase (why := .immNotZero) hp hf ⟨himm, by decide⟩

/-- Settles O14: the answer by definition, the words that the zero fields of `NOP` reserve, and the halted block. -/
theorem nopOnlyAnswers : Obligations.NopOnlyAnswers :=
  ⟨rfl, fun _ => rfl,
    fun _ _ _ hp hf hlo hhi =>
      step_of_reserved_word 0x0#4 (by simp [WantsZeroA]) (by decide) hp hf hlo (Nat.lt_succ_of_le hhi),
    fun _ _ hp hf => step_of_halted hp hf⟩

/-- Settles O15: the effect by definition, the cleared block's view and its reset state, the words that the zero fields
of `CLR` reserve, and the halted block. -/
theorem clrForgetsTheSector : Obligations.ClrForgetsTheSector := by
  refine ⟨rfl, fun _ => rfl, fun s t ht => ?cleared, fun s w rest hp hf hlo hhi => ?reserved,
    fun _ _ hp hf => step_of_halted hp hf⟩
  case cleared =>
    obtain rfl : effectOf .clr s = t := by cases ht; rfl
    exact ⟨statView_clear s, effectOf_clr_eq_reset⟩
  case reserved =>
    exact step_of_reserved_word 0x1#4 (by simp [WantsZeroA]) (by decide) hp hf hlo (Nat.lt_succ_of_le hhi)

/-- Settles O16: the one check of `PUSH`, its effect on the buffer and the count, and `a`, which must be 0. -/
theorem pushAppendsOneByte : Obligations.PushAppendsOneByte := by
  refine ⟨fun imm s => ?exec, fun s a imm rest hp hf ha => ?reserved⟩
  case exec =>
    have hword : encode (.push imm) = 0x20#8 ++ imm := rfl
    refine ⟨hword, fun hroom => hword ▸ exec_push_of_no_room imm hroom, fun room =>
      ⟨_, exec_push_of_room imm room, rfl, wp_succ_toNat room, ?stored, fun a ha => ?kept,
        full_effectOf_push_iff imm room, rfl, fun hok => ⟨hok.cvv_of_room room, hok.cvv_of_room room⟩⟩⟩
    case stored => exact (memRead1_effectOf_push imm s _).trans (if_pos rfl)
    case kept => exact (memRead1_effectOf_push imm s a).trans (if_neg ha)
  case reserved => exact step_of_fields_inCase (why := .aNotZero) hp hf ⟨ha, by simp [WantsZeroA]⟩

end Sys2Proof.Machine

/-! PROOFS. Errors and the halt state (60_exceptions.md): a running block's word has one precise error or an admitted
command's effect, and a halted block waits for the reset input. -/

namespace Sys2Proof.Machine

/-! ### A word to a running block (R101, R107) -/

section

variable {s : State} {w : Word16} {rest : List HostMove} {i : Instr}

/-- The error reported for a command is raised with the word that was presented. -/
theorem step_of_reported_error {e : ErrorCode} (hp : s.pending = .command w :: rest) (hf : s.flt = 0#4)
    (hd : decode s.hasAcchk w = .ok i) (he : reportedError i s = some e) :
    step s = .next (errorAnswer e.bits w { s with pending := rest }) := by
  rw [← encode_of_decode hd]
  exact (step_of_legal_word hp hf hd).trans (exec_of_error he)

/-- A command for which no error is reported has its effect. -/
theorem step_of_no_reported_error (hp : s.pending = .command w :: rest) (hf : s.flt = 0#4)
    (hd : decode s.hasAcchk w = .ok i) (he : reportedError i s = none) :
    step s = .next (effectOf i { s with pending := rest }) :=
  (step_of_legal_word hp hf hd).trans (exec_of_no_error he)

/-- Everything a word to a running block can do: an error, precisely, or the effect of an admitted command. -/
theorem step_running_cases (hp : s.pending = .command w :: rest) (hf : s.flt = 0#4) :
    (∃ e : ErrorCode, step s = .next (errorAnswer e.bits w { s with pending := rest })) ∨
      ∃ i, Admitted i { s with pending := rest } ∧ step s = .next (effectOf i { s with pending := rest }) := by
  cases hd : decode s.hasAcchk w with
  | error why => exact .inl ⟨.illcmd, step_of_illegal_word hp hf hd⟩
  | ok i =>
    cases he : reportedError i s with
    | some e => exact .inl ⟨e, step_of_reported_error hp hf hd he⟩
    | none => exact .inr ⟨i, admitted_of_no_error he, step_of_no_reported_error hp hf hd he⟩

end

/-! ### A step of a halted block (R105, R111) -/

/-- A halted block does nothing of its own, is reset, or answers `E_HALT`. -/
theorem step_halted_cases {s : State} (hf : s.flt ≠ 0#4) :
    step s = .next s ∨
      (∃ rest, s.pending = .reset :: rest ∧ step s = .next (applyReset { s with pending := rest })) ∨
      ∃ rest, step s = .next (answerHalted { s with pending := rest }) := by
  cases hp : s.pending with
  | nil => exact .inl (step_of_no_move hp)
  | cons m rest =>
    cases m with
    | reset => exact .inr (.inl ⟨rest, rfl, step_of_reset hp⟩)
    | command w => exact .inr (.inr ⟨rest, step_of_halted hp hf⟩)

/-! ### The illegal opcodes (R48(a)) -/

theorem reserved_opcode_of_le {op : Nibble} (h : 0xC ≤ op.toNat) :
    op = 0xC#4 ∨ op = 0xD#4 ∨ op = 0xE#4 ∨ op = 0xF#4 := by
  revert op; decide

/-! ### The obligations -/

/-- Settles O6: it is the first outcome of the frame. -/
theorem haltedBlockAnswersHaltAndChangesNothing : Obligations.HaltedBlockAnswersHaltAndChangesNothing :=
  fun _ _ _ hp hf => step_of_halted hp hf

/-- Settles O7: each of the four conditions is a case of R48, whose words the decoder refuses. -/
theorem illegalWordRaisesIllcmd : Obligations.IllegalWordRaisesIllcmd := by
  intro s op a imm rest hp hf hillegal
  have hcase : ∃ why, InCase s.hasAcchk op a imm why := by
    obtain hop | habsent | himm | ha := hillegal
    · exact ⟨.reservedOpcode, reserved_opcode_of_le hop⟩
    · exact ⟨.acchkAbsent, habsent⟩
    · exact ⟨.immNotZero, himm⟩
    · exact ⟨.aNotZero, ha⟩
  obtain ⟨why, hwhy⟩ := hcase
  exact step_of_fields_inCase hp hf hwhy

/-- Settles O32: the three outcomes of the frame, and for a decoded command the error reported or, with none, the
admitted effect's answer. -/
theorem firstErrorInPriorityOrder : Obligations.FirstErrorInPriorityOrder := by
  intro s w rest hp
  refine ⟨fun hf => ⟨_, step_of_halted hp hf, rfl, rfl⟩, fun hf why hd => step_of_illegal_word hp hf hd,
    fun hf i hd => ?decoded⟩
  case decoded =>
    cases he : reportedError i s with
    | some e => exact step_of_reported_error hp hf hd he
    | none =>
      have hadm : Admitted i { s with pending := rest } := admitted_of_no_error he
      obtain ⟨d, hreceived, hflt, -⟩ := effectOf_answer hadm
      exact ⟨_, d, step_of_no_reported_error hp hf hd he, hreceived, hflt.trans hf⟩

/-- Settles O33: an error is precise, and an admitted command leaves the latch 0. -/
theorem errorsArePrecise : Obligations.ErrorsArePrecise := by
  intro s t w rest hp hf hst hhalted
  obtain ⟨e, hs⟩ | ⟨i, hadm, hs⟩ := step_running_cases hp hf
  · cases hst.symm.trans hs
    rfl
  · cases hst.symm.trans hs
    obtain ⟨-, -, hflt, -⟩ := effectOf_answer hadm
    exact absurd (hflt.trans hf) hhalted

/-- Settles O35: of the three steps of a halted block only the reset changes an element. -/
theorem onlyResetLeavesHalt : Obligations.OnlyResetLeavesHalt := by
  refine ⟨fun s t hf hst => ?step, fun s w rest hp hf => ⟨_, step_of_halted hp hf, rfl, rfl⟩⟩
  case step =>
    obtain hs | ⟨rest, hp, hs⟩ | ⟨rest, hs⟩ := step_halted_cases hf <;> cases hst.symm.trans hs
    · exact .inl rfl
    · exact .inr ⟨⟨rest, hp⟩, rfl, rfl, rfl, rfl, rfl, rfl, rfl, rfl⟩
    · exact .inl rfl

end Sys2Proof.Machine

/-! PROOFS. Reset and the reading of a run (70_reset_and_hazards.md): the reset input, and the latch as the host reads
it from the codes of the responses. -/

namespace Sys2Proof.Machine

/-! ### One word, one response (R124) -/

/-- A step on a word takes that word only and gives one response. -/
theorem step_word_takes_one {s : State} {w : Word16} {rest : List HostMove} (hp : s.pending = .command w :: rest) :
    ∃ t r, step s = .next t ∧ t.pending = rest ∧ t.received = r :: s.received := by
  obtain ⟨t, hstep, -, r, hreceived⟩ := step_command_answers_once s w
  refine ⟨{ t with pending := rest }, r, ?_, rfl, hreceived⟩
  rw [← hstep rest, ← hp]

/-! ### The reading of the latch (R130) -/

/-- The host reads the latch from the responses: it is 0 iff all of them were `OK`. -/
def LatchIsRead (s : State) : Prop := s.flt = 0#4 ↔ ∀ r ∈ s.received, r.code = 0x0#4

/-- At the start of a run the latch is 0 and there is no response. -/
theorem latchIsRead_startOfRun (hasAcchk : Bool) (moves : List HostMove) : LatchIsRead (startOfRun hasAcchk moves) :=
  iff_of_true rfl nofun

/-- After a word the block runs iff it ran before and answered the word `OK`: an error latches its code, which is not 0,
and a halted block answers `E_HALT` and stays halted (R101, R105). -/
theorem flt_zero_after_word_iff {s t : State} {w : Word16} {rest : List HostMove}
    (hp : s.pending = .command w :: rest) (hst : step s = .next t) :
    ∃ r, t.received = r :: s.received ∧ (t.flt = 0#4 ↔ r.code = 0x0#4 ∧ s.flt = 0#4) := by
  obtain ⟨t', r, hst', hreceived, hcases⟩ := responsesHaveTheListedCodes s w rest hp
  cases hst'.symm.trans hst
  refine ⟨r, hreceived, ?_⟩
  obtain ⟨hcode, hf, hflt, -⟩ | ⟨-, -, -, hf, hflt⟩ | ⟨hcode, hf, -, hflt⟩ := hcases
  · exact iff_of_true hflt ⟨hcode, hf⟩
  · rw [hflt, and_iff_left hf]
  · rw [hflt, hcode]
    exact iff_of_false hf (fun h => hf h.2)

/-- Settles O49: the latch is 0 after a word iff it was 0 before and the one new response is `OK`. -/
theorem everyWordKeepsTheReadingOfTheLatch : Obligations.EveryWordKeepsTheReadingOfTheLatch := by
  intro s t w rest hp hread hst
  obtain ⟨r, hreceived, hflt⟩ := flt_zero_after_word_iff hp hst
  rw [hflt, hread, hreceived, List.forall_mem_cons]

/-- As many steps as words wait take them all, give one response to each, and keep the reading of the latch. -/
theorem runSteps_wordMoves {s : State} {words : List Word16} (hp : s.pending = wordMoves words) (hread : LatchIsRead s) :
    ∃ t, runSteps words.length s = .next t ∧ t.pending = [] ∧
      t.received.length = s.received.length + words.length ∧ LatchIsRead t := by
  induction words generalizing s with
  | nil => exact ⟨s, rfl, hp, rfl, hread⟩
  | cons w words ih =>
    obtain ⟨u, r, hs, hrest, hreceived⟩ := step_word_takes_one hp
    obtain ⟨t, hrun, hnil, hlength, hread'⟩ := ih hrest (everyWordKeepsTheReadingOfTheLatch s u w _ hp hread hs)
    refine ⟨t, (runSteps_succ words.length hs).trans hrun, hnil, ?_, hread'⟩
    rw [hlength, hreceived, List.length_cons, List.length_cons]
    omega

/-- Settles O46: the reading holds at the start of a run and each word keeps it. -/
theorem runSucceedsIffEveryResponseIsOk : Obligations.RunSucceedsIffEveryResponseIsOk := by
  intro hasAcchk words
  obtain ⟨t, hrun, hnil, hlength, hread⟩ := runSteps_wordMoves (s := startOfRun hasAcchk (wordMoves words)) rfl
    (latchIsRead_startOfRun hasAcchk _)
  exact ⟨t, hrun, hnil, hlength.trans (Nat.zero_add _), hread⟩

/-! ### The reset input, and no input (R120, R124) -/

/-- Settles O3: the reset input is applied to the state with the move taken off; any other step of a halted block
leaves the latch, as every other element, as it was. -/
theorem resetInputRestoresResetValues : Obligations.ResetInputRestoresResetValues := by
  refine ⟨fun s rest hp => ?restored, fun s t hf hst hrunning => ?onlyWayOut⟩
  case restored => exact ⟨_, step_of_reset hp, rfl, rfl, rfl, rfl, rfl, rfl, rfl, rfl, rfl, rfl, rfl⟩
  case onlyWayOut =>
    obtain ⟨hhalted, -⟩ := onlyResetLeavesHalt
    obtain hsame | ⟨hreset, -⟩ := hhalted s t hf hst
    · have hflt : t.flt = s.flt := by rw [← hsame]
      exact absurd (hflt.symm.trans hrunning) hf
    · exact hreset

/-- Settles O5: it is the step with no move waiting. -/
theorem stepWithoutHostMoveChangesNothing : Obligations.StepWithoutHostMoveChangesNothing :=
  fun _ hp => step_of_no_move hp

end Sys2Proof.Machine
